-- ==== Sys2Proof/Word.lean ====
section
/-! DEFINITION. The value types of the unit: bus words, bytes and field elements (spec 00_scope.md R2 to R4, R8, R9). -/

namespace Sys2Proof

/-- A bus word, a command word or a 32-bit register (R8 BUS_WIDTH, CW, ACC_WIDTH; R9: bit 0 is the least significant). -/
abbrev Word := BitVec 32

/-- A byte, an unsigned value 0 to 255 (R4). -/
abbrev Byte := BitVec 8

/-- A field element, one of 0, 1, …, 256 (R3). R23: "A model may therefore type a field register as `Fin 257`". -/
abbrev GF := Fin 257

end Sys2Proof
end

