-- ==== Sys2Proof/Syntax.lean ====
section
/-! DEFINITION. The sixteen commands of the unit, one constructor per row of the opcode table (spec 30_encoding.md
R86, operand names of R81 to R83). -/

namespace Sys2Proof

/-- The index of a field register, F0 to F7; every index is legal and F0 is ordinary (R22, R84). -/
abbrev Reg := Fin 8

/-- A command with its decoded operands, in the order rd, rs1, rs2, rs3, rs4 of the assembly syntax (R91). -/
inductive Instr where
  /-- NOP (R101). -/
  | nop
  /-- LDI Fd, imm (R102). `imm9` is a number; its encodable range 0 to 511 (R85) is the check of WellFormed.lean. -/
  | ldi (rd : Reg) (imm9 : Nat)
  /-- MOV Fd, Fs (R103). -/
  | mov (rd rs1 : Reg)
  /-- FADD Fd, Fa, Fb (R111). -/
  | fadd (rd rs1 rs2 : Reg)
  /-- FSUB Fd, Fa, Fb (R112). -/
  | fsub (rd rs1 rs2 : Reg)
  /-- FMUL Fd, Fa, Fb (R113). -/
  | fmul (rd rs1 rs2 : Reg)
  /-- FINV Fd, Fn (R114). -/
  | finv (rd rs1 : Reg)
  /-- PEVAL Fd, Fa0, Fa1, Fx (R130). -/
  | peval (rd rs1 rs2 rs3 : Reg)
  /-- BTRUNC Fd, Fs (R133). -/
  | btrunc (rd rs1 : Reg)
  /-- LAGC Fd, Fxi, Fxj (R140). -/
  | lagc (rd rs1 rs2 : Reg)
  /-- LINT Fd, Fy1, Fb1, Fy2, Fb2 (R143). -/
  | lint (rd rs1 rs2 rs3 rs4 : Reg)
  /-- BCLMP Fd, Fs (R146). -/
  | bclmp (rd rs1 : Reg)
  /-- BAVGF Fd, Fp1, Fp2, Fp3, Fp4 (R160). -/
  | bavgf (rd rs1 rs2 rs3 rs4 : Reg)
  /-- BAVGP Fd, Fp1, Fp2, Fp3, Fp4 (R162). -/
  | bavgp (rd rs1 rs2 rs3 rs4 : Reg)
  /-- SADACC Fa, Fb (R170): no destination field register. -/
  | sadacc (rs1 rs2 : Reg)
  /-- ACCCLR (R172). -/
  | accclr
  deriving DecidableEq, Repr

end Sys2Proof
end

