-- ==== Sys2Proof/WellFormed.lean ====
section
/-! DEFINITION. Which instructions have an encoding (spec 30_encoding.md R85), and which ones an assembler takes (R91).
Register operands are legal by their type (R84: "Every index is legal"). -/

namespace Sys2Proof

/-- An instruction is well formed when its immediate, if it has one, is encodable: imm9's "encodable range is 0 to 511"
(R85). 257 to 511 are encodable and raise RANGE when executed (R102). -/
def Instr.wellFormed : Instr → Bool
  | .nop => true
  | .ldi _ imm9 => decide (imm9 < 512)
  | .mov _ _ => true
  | .fadd _ _ _ => true
  | .fsub _ _ _ => true
  | .fmul _ _ _ => true
  | .finv _ _ => true
  | .peval _ _ _ _ => true
  | .btrunc _ _ => true
  | .lagc _ _ _ => true
  | .lint _ _ _ _ _ => true
  | .bclmp _ _ => true
  | .bavgf _ _ _ _ _ => true
  | .bavgp _ _ _ _ _ => true
  | .sadacc _ _ => true
  | .accclr => true

/-- "An assembler rejects an LDI immediate above 256" (R91). -/
def Instr.assemblable : Instr → Bool
  | .nop => true
  | .ldi _ imm9 => decide (imm9 ≤ 256)
  | .mov _ _ => true
  | .fadd _ _ _ => true
  | .fsub _ _ _ => true
  | .fmul _ _ _ => true
  | .finv _ _ => true
  | .peval _ _ _ _ => true
  | .btrunc _ _ => true
  | .lagc _ _ _ => true
  | .lint _ _ _ _ _ => true
  | .bclmp _ _ => true
  | .bavgf _ _ _ _ _ => true
  | .bavgp _ _ _ _ _ => true
  | .sadacc _ _ => true
  | .accclr => true

end Sys2Proof
end

