-- ==== Sys2Proof/Decode.lean ====
section
/-! DEFINITION. The decoder and, after it, the encoder (spec 30_encoding.md R80 to R93, 20_memory.md R53). -/

namespace Sys2Proof

/-- The sixteen rows of the opcode table (R86), named by their mnemonics. -/
inductive Command where
  | nop | ldi | mov | fadd | fsub | fmul | finv | peval | btrunc | lagc | lint | bclmp | bavgf | bavgp | sadacc | accclr
  deriving DecidableEq, Repr

/-- Why a word is illegal (R87, R88). Both raise ILLEGAL when executed (R90). -/
inductive IllegalReason where
  /-- One of the 48 opcodes outside the table (R87). -/
  | unassignedOpcode
  /-- A legal opcode with a 1 in a bit its mask covers outside the opcode (R88). -/
  | nonzeroUnusedBit
  deriving DecidableEq, Repr

/-- What a word decodes to: "every 32-bit word decodes to one of the 16 commands or to ILLEGAL" (R90). -/
inductive Decoded where
  | command (i : Instr)
  | illegal (why : IllegalReason)
  deriving DecidableEq, Repr

/-! ### Field extraction (R83) -/

/-- opcode = cmd[31:26] (R83). -/
def opcodeField (cmd : Word) : BitVec 6 := cmd.extractLsb' 26 6

/-- The register field of three bits whose lowest bit is `lo` (R83, R84). -/
def regField (cmd : Word) (lo : Nat) : Reg := (cmd.extractLsb' lo 3).toFin

/-- rd = cmd[25:23] (R83). -/
def rdField (cmd : Word) : Reg := regField cmd 23

/-- rs1 = cmd[22:20] (R83). -/
def rs1Field (cmd : Word) : Reg := regField cmd 20

/-- rs2 = cmd[19:17] (R83). -/
def rs2Field (cmd : Word) : Reg := regField cmd 17

/-- rs3 = cmd[16:14] (R83). -/
def rs3Field (cmd : Word) : Reg := regField cmd 14

/-- rs4 = cmd[13:11] (R83). -/
def rs4Field (cmd : Word) : Reg := regField cmd 11

/-- imm9 = cmd[8:0], zero-extended, "not scaled, shifted or sign-extended" (R83, R85). -/
def imm9Field (cmd : Word) : Nat := (cmd.extractLsb' 0 9).toNat

/-! ### The opcode table (R86) -/

/-- The command an opcode selects, none for the 48 unassigned opcodes (R86, R87). -/
def commandOf (op : BitVec 6) : Option Command :=
  match op.toNat with
  | 0x00 => some .nop
  | 0x01 => some .ldi
  | 0x02 => some .mov
  | 0x04 => some .fadd
  | 0x05 => some .fsub
  | 0x06 => some .fmul
  | 0x07 => some .finv
  | 0x08 => some .peval
  | 0x09 => some .btrunc
  | 0x0C => some .lagc
  | 0x0D => some .lint
  | 0x0E => some .bclmp
  | 0x10 => some .bavgf
  | 0x11 => some .bavgp
  | 0x14 => some .sadacc
  | 0x15 => some .accclr
  | _ => none

/-- The column `match` of the table (R86). -/
def Command.matchWord : Command → Word
  | .nop => 0x00000000#32
  | .ldi => 0x04000000#32
  | .mov => 0x08000000#32
  | .fadd => 0x10000000#32
  | .fsub => 0x14000000#32
  | .fmul => 0x18000000#32
  | .finv => 0x1C000000#32
  | .peval => 0x20000000#32
  | .btrunc => 0x24000000#32
  | .lagc => 0x30000000#32
  | .lint => 0x34000000#32
  | .bclmp => 0x38000000#32
  | .bavgf => 0x40000000#32
  | .bavgp => 0x44000000#32
  | .sadacc => 0x50000000#32
  | .accclr => 0x54000000#32

/-- The column `mask` of the table (R86): the opcode and every bit that must be 0. -/
def Command.mask : Command → Word
  | .nop => 0xFFFFFFFF#32
  | .ldi => 0xFC7FFE00#32
  | .mov => 0xFC0FFFFF#32
  | .fadd => 0xFC01FFFF#32
  | .fsub => 0xFC01FFFF#32
  | .fmul => 0xFC01FFFF#32
  | .finv => 0xFC0FFFFF#32
  | .peval => 0xFC003FFF#32
  | .btrunc => 0xFC0FFFFF#32
  | .lagc => 0xFC01FFFF#32
  | .lint => 0xFC0007FF#32
  | .bclmp => 0xFC0FFFFF#32
  | .bavgf => 0xFC0007FF#32
  | .bavgp => 0xFC0007FF#32
  | .sadacc => 0xFF81FFFF#32
  | .accclr => 0xFFFFFFFF#32

/-- The instruction a word of a command stands for: the fields the row uses (R81 to R83, R86). -/
def Command.instr (cmd : Word) : Command → Instr
  | .nop => .nop
  | .ldi => .ldi (rdField cmd) (imm9Field cmd)
  | .mov => .mov (rdField cmd) (rs1Field cmd)
  | .fadd => .fadd (rdField cmd) (rs1Field cmd) (rs2Field cmd)
  | .fsub => .fsub (rdField cmd) (rs1Field cmd) (rs2Field cmd)
  | .fmul => .fmul (rdField cmd) (rs1Field cmd) (rs2Field cmd)
  | .finv => .finv (rdField cmd) (rs1Field cmd)
  | .peval => .peval (rdField cmd) (rs1Field cmd) (rs2Field cmd) (rs3Field cmd)
  | .btrunc => .btrunc (rdField cmd) (rs1Field cmd)
  | .lagc => .lagc (rdField cmd) (rs1Field cmd) (rs2Field cmd)
  | .lint => .lint (rdField cmd) (rs1Field cmd) (rs2Field cmd) (rs3Field cmd) (rs4Field cmd)
  | .bclmp => .bclmp (rdField cmd) (rs1Field cmd)
  | .bavgf => .bavgf (rdField cmd) (rs1Field cmd) (rs2Field cmd) (rs3Field cmd) (rs4Field cmd)
  | .bavgp => .bavgp (rdField cmd) (rs1Field cmd) (rs2Field cmd) (rs3Field cmd) (rs4Field cmd)
  | .sadacc => .sadacc (rs1Field cmd) (rs2Field cmd)
  | .accclr => .accclr

/-! ### Decoding (R90) -/

/-- Decode a command word, in the order of R90: the opcode must be in the table, then the masked word must match. -/
def decode (cmd : Word) : Decoded :=
  match commandOf (opcodeField cmd) with
  | none => .illegal .unassignedOpcode
  | some c =>
    if cmd &&& c.mask = c.matchWord then .command (c.instr cmd) else .illegal .nonzeroUnusedBit

/-- The word carried by four byte lanes, little-endian (R53: lane j is bits [8j+7 : 8j]; "Commands are 32-bit words
carried the same way"). -/
def wordOfLanes (b0 b1 b2 b3 : Byte) : Word := b3 ++ b2 ++ b1 ++ b0

/-- Byte lane j of a word (R53). -/
def laneOf (w : Word) (j : Nat) : Byte := w.extractLsb' (8 * j) 8

/-- Decode the command in the first four bytes of a list, and the rest of the list; none when fewer are there. Every
command is four bytes long (R80). -/
def decodeLanes : List Byte → Option (Decoded × List Byte)
  | b0 :: b1 :: b2 :: b3 :: rest => some (decode (wordOfLanes b0 b1 b2 b3), rest)
  | _ => none

/-- The instruction the decoder reads from a word of `nbits` bits numbered as the opcode table numbers them (one word
of 32 bits, R80; bits above `nbits` are 0), none where it is illegal. -/
def decodeTableWord (nbits w : Nat) : Option Instr :=
  match decode (BitVec.ofNat 32 (w % 2 ^ nbits)) with
  | .command i => some i
  | .illegal _ => none

/-! ### Encoding (R93) -/

/-- The opcode of a command (R86). -/
def Command.opcode : Command → BitVec 6
  | .nop => 0x00#6
  | .ldi => 0x01#6
  | .mov => 0x02#6
  | .fadd => 0x04#6
  | .fsub => 0x05#6
  | .fmul => 0x06#6
  | .finv => 0x07#6
  | .peval => 0x08#6
  | .btrunc => 0x09#6
  | .lagc => 0x0C#6
  | .lint => 0x0D#6
  | .bclmp => 0x0E#6
  | .bavgf => 0x10#6
  | .bavgp => 0x11#6
  | .sadacc => 0x14#6
  | .accclr => 0x15#6

/-- A register index at its place in a word. -/
def regBits (r : Reg) (lo : Nat) : Word := BitVec.ofNat 32 r.val <<< lo

/-- An opcode at its place, bits 31:26. -/
def opcodeBits (op : BitVec 6) : Word := op.setWidth 32 <<< 26

/-- `cmd = opcode<<26 | rd<<23 | rs1<<20 | rs2<<17 | rs3<<14 | rs4<<11` (R93), unused fields 0. -/
def encodeR (c : Command) (rd rs1 rs2 rs3 rs4 : Reg) : Word :=
  opcodeBits c.opcode ||| regBits rd 23 ||| regBits rs1 20 ||| regBits rs2 17 ||| regBits rs3 14 ||| regBits rs4 11

/-- `cmd = 0x01<<26 | rd<<23 | imm9` (R93); an immediate of an ill-formed instruction keeps its low 9 bits (log 9). -/
def encodeI (rd : Reg) (imm9 : Nat) : Word :=
  opcodeBits Command.ldi.opcode ||| regBits rd 23 ||| BitVec.ofNat 32 (imm9 % 512)

/-- The word of an instruction (R93). -/
def encode : Instr → Word
  | .nop => encodeR .nop 0 0 0 0 0
  | .ldi rd imm9 => encodeI rd imm9
  | .mov rd rs1 => encodeR .mov rd rs1 0 0 0
  | .fadd rd rs1 rs2 => encodeR .fadd rd rs1 rs2 0 0
  | .fsub rd rs1 rs2 => encodeR .fsub rd rs1 rs2 0 0
  | .fmul rd rs1 rs2 => encodeR .fmul rd rs1 rs2 0 0
  | .finv rd rs1 => encodeR .finv rd rs1 0 0 0
  | .peval rd rs1 rs2 rs3 => encodeR .peval rd rs1 rs2 rs3 0
  | .btrunc rd rs1 => encodeR .btrunc rd rs1 0 0 0
  | .lagc rd rs1 rs2 => encodeR .lagc rd rs1 rs2 0 0
  | .lint rd rs1 rs2 rs3 rs4 => encodeR .lint rd rs1 rs2 rs3 rs4
  | .bclmp rd rs1 => encodeR .bclmp rd rs1 0 0 0
  | .bavgf rd rs1 rs2 rs3 rs4 => encodeR .bavgf rd rs1 rs2 rs3 rs4
  | .bavgp rd rs1 rs2 rs3 rs4 => encodeR .bavgp rd rs1 rs2 rs3 rs4
  | .sadacc rs1 rs2 => encodeR .sadacc 0 rs1 rs2 0 0
  | .accclr => encodeR .accclr 0 0 0 0 0

/-- The row of the opcode table an instruction belongs to. -/
def Instr.command : Instr → Command
  | .nop => .nop
  | .ldi _ _ => .ldi
  | .mov _ _ => .mov
  | .fadd _ _ _ => .fadd
  | .fsub _ _ _ => .fsub
  | .fmul _ _ _ => .fmul
  | .finv _ _ => .finv
  | .peval _ _ _ _ => .peval
  | .btrunc _ _ => .btrunc
  | .lagc _ _ _ => .lagc
  | .lint _ _ _ _ _ => .lint
  | .bclmp _ _ => .bclmp
  | .bavgf _ _ _ _ _ => .bavgf
  | .bavgp _ _ _ _ _ => .bavgp
  | .sadacc _ _ => .sadacc
  | .accclr => .accclr

end Sys2Proof
end

