-- ==== Sys2Proof/Config.lean ====
section
/-! DEFINITION. The parameters of the unit (spec 00_scope.md R8, "No other parameter exists"). -/

namespace Sys2Proof

/-- The field prime P (R2, R8). -/
def Config.P : Nat := 257

/-- INV4, the wired inverse of 4 in GF(257) (R8, R161). -/
def Config.INV4 : Nat := 193

/-- The threshold K of the sharing scheme (R5, R8); only host procedures use it. -/
def Config.K : Nat := 2

/-- The number N of shares (R5, R8); only host procedures use it. -/
def Config.N : Nat := 3

/-- ID_VALUE, what the ID register always reads (R8, R36). -/
def Config.idValue : Word := 0x01010001#32

/-- BASE, the host address of the register window: OPEN in the spec (R8, R50, D42), so a constant without a body.
Log 6. -/
opaque Config.base : Nat

end Sys2Proof
end

