-- ==== Sys2Proof/Machine/Field.lean ====
section
/-! DEFINITION. The arithmetic of the units: mod 257 and on plain integers (spec 00_scope.md R11, R12). Operands are taken
as numbers, the result is computed exactly and narrowed once at the end. -/

namespace Sys2Proof.Machine

/-- `n mod P` as a field element (R11). -/
def modP (n : Nat) : GF := ⟨n % Config.P, Nat.mod_lt n (by decide)⟩

/-- `add(a, b) = (a + b) mod P` (R12). -/
def fieldAdd (a b : GF) : GF := modP (a.val + b.val)

/-- `sub(a, b) = (a − b + P) mod P` (R12); a + P − b lies in [1, 513], so nothing is cut off (R110). -/
def fieldSub (a b : GF) : GF := modP (a.val + Config.P - b.val)

/-- `mul(a, b) = (a · b) mod P`, the product exact (R12, R113). -/
def fieldMul (a b : GF) : GF := modP (a.val * b.val)

/-- `inverse(n)` for n ≠ 0: "the unique `m` such that `n*m ≡ 1 mod P`" (R12), computed as n^(P−2), one of the methods R115
allows (log 8). For n = 0 it is not used: FINV raises DOMAIN (R116) and LAGC raises DUPX (R141) before it. -/
def fieldInv (n : GF) : GF := modP (n.val ^ (Config.P - 2))

/-- The degree-1 Horner evaluation, `mul(a1, x)` then `add(·, a0)` (R130, R131). -/
def horner (a0 a1 x : GF) : GF := fieldAdd (fieldMul a1 x) a0

/-- The Lagrange basis coefficient at 0 of the point xi against xj, `mul(xj, inverse(sub(xj, xi)))` (R140). -/
def lagrangeBasis (xi xj : GF) : GF := fieldMul xj (fieldInv (fieldSub xj xi))

/-- Two-point interpolation, `add(mul(y1, b1), mul(y2, b2))` (R143). -/
def interpolate (y1 b1 y2 b2 : GF) : GF := fieldAdd (fieldMul y1 b1) (fieldMul y2 b2)

/-- The field-domain average: the field sum times the wired constant INV4 = 193 (R160, R161). -/
def fieldAverage (p1 p2 p3 p4 : GF) : GF :=
  fieldMul (fieldAdd (fieldAdd (fieldAdd p1 p2) p3) p4) (modP Config.INV4)

/-- The plaintext average, `floor((p1+p2+p3+p4)/4)` on integers, with the defensive clamp to [0, 255] that "never changes
avg here" (R162, R163). -/
def plainAverage (p1 p2 p3 p4 : GF) : GF :=
  modP (min (max ((p1.val + p2.val + p3.val + p4.val) / 4) 0) 255)

/-- The encode-path conversion: "the low 8 bits", 256 becomes 0 (R133). -/
def truncateByte (v : GF) : GF := modP (v.val % 256)

/-- `|a − b|` on unsigned values (R170). -/
def absDiff (a b : GF) : Nat := ((a.val : Int) - (b.val : Int)).natAbs

end Sys2Proof.Machine
end

