-- ==== Sys2Proof/Machine/State.lean ====
section
/-! DEFINITION. The state of the machine as plain data: the unit's registers (spec 10_state.md R40) and the outside
world's side of its bus. -/

namespace Sys2Proof.Machine

/-- The error codes STATUS.ERRCODE can hold (R211). 93_implementation_defined.md: "a model's code type has exactly
0..4". -/
inductive ErrCode where
  /-- 0, no error recorded. -/
  | none
  /-- 1, unassigned opcode or a 1 in a must-be-zero or unused field. -/
  | illegal
  /-- 2, an operand or immediate outside the command's domain. -/
  | range
  /-- 3, inverse of zero. -/
  | domain
  /-- 4, two equal x-coordinates in a Lagrange coefficient. -/
  | dupx
  deriving DecidableEq, Repr

/-- Who drives an access. R20: the host "is the only bus master"; R227: "Two hosts sharing one unit are not supported". -/
inductive Master where
  | host
  | other
  deriving DecidableEq, Repr

/-- The width of a bus access (R52). -/
inductive AccessWidth where
  | byte
  | half
  | word
  deriving DecidableEq, Repr

/-- What an access does: BusRead(off), or BusWrite(off, w) (R10). -/
inductive AccessKind where
  | read
  | write (data : Word)
  deriving DecidableEq, Repr

/-- One bus access. `off` is the byte offset from BASE (R50, log 6). -/
structure Access where
  master : Master
  width : AccessWidth
  off : Nat
  kind : AccessKind
  deriving DecidableEq, Repr

/-- What the outside world does to the unit: an access, or an edge of the reset input (R240, R243, log 4). -/
inductive BusEvent where
  | access (a : Access)
  | assertReset
  | releaseReset
  deriving DecidableEq, Repr

/-- Why the machine stops with a fault. -/
inductive Fault where
  /-- An access whose offset is outside the 256-byte window (R50, R71). Raised by Machine/Bus.lean's `access`. Safe: the
  machine stops where the platform would address something that is not the unit (log 5). -/
  | outsideWindow
  deriving DecidableEq, Repr

/-- Why the model refuses to take a step. -/
inductive Refusal where
  /-- An instruction that has no meaning in the model yet. Raised by no arm of exec: every command has its meaning.
  Safe. -/
  | notModelled (mnemonic : String)
  /-- An 8-bit or 16-bit access (R52: "a model must refuse it (no step)"). Raised by `access`. Safe. -/
  | narrowAccess
  /-- A 32-bit access at an offset that is no multiple of 4 (R52). Raised by `access`. Safe. -/
  | misalignedAccess
  /-- An access while the reset input is asserted (R243: "a model must refuse them (no step)"). Raised by `access`.
  Safe. -/
  | accessDuringReset
  /-- An access by a second host (R227: "a model must refuse such a platform"). Raised by `access`. Safe. -/
  | secondMaster
  deriving DecidableEq, Repr

/-- The state: R40's table, "The complete state of the unit, for a model", and three fields of the model's own. -/
structure State where
  /-- F0 to F7 (R22). -/
  fregs : Vector GF 8
  /-- ACC (R24). -/
  acc : Word
  /-- STATUS.ERR (R26). -/
  err : Bool
  /-- STATUS.WARN_CLAMP (R27). -/
  warnClamp : Bool
  /-- STATUS.ACC_OVF (R28). -/
  accOvf : Bool
  /-- STATUS.ERRCODE (R29). -/
  errCode : ErrCode
  /-- ERRINFO (R30). -/
  errInfo : Word
  /-- CLAMPCNT (R31). -/
  clampCnt : Word
  /-- LASTCMD (R32). -/
  lastCmd : Word
  /-- The model's own: whether the reset input is asserted (R240, R243, log 4). -/
  resetLine : Bool
  /-- The model's own: the bus events not yet taken, oldest first (R20, R65, log 1). -/
  pending : List BusEvent
  /-- The model's own: the words the host's reads have returned, oldest first (R199, log 7). -/
  reads : List Word
  deriving DecidableEq, Repr

/-- The machine right after reset: every register of the unit 0 (R241), the reset input released, nothing pending and
nothing read (DESIGN CHOICE for the model's own fields, logs 1, 4 and 7). -/
def State.reset : State where
  fregs := Vector.replicate 8 0
  acc := 0#32
  err := false
  warnClamp := false
  accOvf := false
  errCode := .none
  errInfo := 0#32
  clampCnt := 0#32
  lastCmd := 0#32
  resetLine := false
  pending := []
  reads := []

end Sys2Proof.Machine
end

