-- ==== Sys2Proof/Machine/Ops.lean ====
section
/-! DEFINITION. The named operations over the registers: reading and writing each, recording an error (the unit's one
form of an exception), acknowledging it, and reset. -/

namespace Sys2Proof.Machine

/-- What a command, an access or a step answers. -/
abbrev Result := Host.Outcome State Fault Refusal

/-! ### Registers -/

/-- Read field register r, a value in GF (R10 `F[i]`, R22). -/
def State.F (s : State) (r : Reg) : GF := s.fregs[r]

/-- `F[r] <- v` (R10). -/
def State.setF (s : State) (r : Reg) (v : GF) : State := { s with fregs := s.fregs.set r v }

/-- `ACC <- w` (R24, R61, R172). -/
def State.setAcc (s : State) (w : Word) : State := { s with acc := w }

/-- `CLAMPCNT <- w` by a host write; WARN_CLAMP is not changed (R62). -/
def State.setClampCnt (s : State) (w : Word) : State := { s with clampCnt := w }

/-- `LASTCMD <- w` (R32, R55). -/
def State.setLastCmd (s : State) (w : Word) : State := { s with lastCmd := w }

/-- STATUS.WARN_CLAMP <- 0 (R27, R56). -/
def State.clearWarnClamp (s : State) : State := { s with warnClamp := false }

/-- STATUS.ACC_OVF <- 0 (R28, R56). -/
def State.clearAccOvf (s : State) : State := { s with accOvf := false }

/-! ### Taking an exception, and the return from it

The unit has no traps (R210, R218): what a fatal condition saves is ERRCODE and ERRINFO, execution goes on with the
host's next access, and the host's acknowledgement is the only thing like a return (R219). -/

/-- Recording an error (R214): ERR is set, and while it was 0 the code and the command word are kept. "The first error
since the last clear is kept; later ones set nothing new." -/
def State.recordError (code : ErrCode) (cmd : Word) (s : State) : State :=
  { s with
    err := true
    errCode := if s.err then s.errCode else code
    errInfo := if s.err then s.errInfo else cmd }

/-- `raise Err(code)` ends the command cmd (R10, R213): nothing of its own is written, the error is recorded, and the
unit goes on (R215). -/
def State.raiseErr (code : ErrCode) (cmd : Word) (s : State) : Result :=
  .next (s.recordError code cmd)

/-- The acknowledgement: ERR, ERRCODE and ERRINFO become 0 in one access (R26, R56, R219). "nothing else is restored". -/
def State.clearError (s : State) : State := { s with err := false, errCode := .none, errInfo := 0#32 }

/-! ### Reset -/

/-- What a reset of either source does (R240, R241): every piece of the unit's state becomes 0. The outside world's side
of the bus is not the unit's state (R40). -/
def State.resetUnit (s : State) : State :=
  { s with
    fregs := Vector.replicate 8 0
    acc := 0#32
    err := false
    warnClamp := false
    accOvf := false
    errCode := .none
    errInfo := 0#32
    clampCnt := 0#32
    lastCmd := 0#32 }

/-! ### The outside world's side -/

/-- The level of the reset input (log 4). -/
def State.setResetLine (s : State) (b : Bool) : State := { s with resetLine := b }

/-- The events still pending (log 1). -/
def State.setPending (s : State) (p : List BusEvent) : State := { s with pending := p }

/-- A word returned by a read joins the host's observation (R199, log 7). -/
def State.logRead (s : State) (w : Word) : State := { s with reads := s.reads ++ [w] }

end Sys2Proof.Machine
end

