-- ==== Sys2Proof/Machine/Operands.lean ====
section
/-! DEFINITION. The operand forms and their domain checks: a field register index is read through `State.F` (R84), an
immediate and a byte operand are checked here. -/

namespace Sys2Proof.Machine

/-- The field element an LDI immediate names, none where it is "not a field element" (R85, R102). -/
def immediateElement (imm9 : Nat) : Option GF :=
  if h : imm9 < 257 then some ⟨imm9, h⟩ else none

/-- Whether a field element is a byte: "the field element 256 is not a byte" (R4, R163, R170). -/
def isByte (v : GF) : Bool := decide (v.val ≤ 255)

end Sys2Proof.Machine
end

