-- ==== Sys2Proof/Machine/BlockAverage.lean ====
section
/-! DEFINITION. The two 2×2 block averagers BAVGF and BAVGP (spec 44_block_average.md). -/

namespace Sys2Proof.Machine

/-- BAVGF Fd, Fp1, Fp2, Fp3, Fp4 (R160): any field elements, the raw field value. -/
def execBavgf (rd rs1 rs2 rs3 rs4 : Reg) (s : State) : Result :=
  .next (s.setF rd (fieldAverage (s.F rs1) (s.F rs2) (s.F rs3) (s.F rs4)))

/-- BAVGP Fd, Fp1, Fp2, Fp3, Fp4 (R162): RANGE when an operand is no byte (R163), else the integer average. -/
def execBavgp (rd rs1 rs2 rs3 rs4 : Reg) (s : State) : Result :=
  if isByte (s.F rs1) && isByte (s.F rs2) && isByte (s.F rs3) && isByte (s.F rs4) then
    .next (s.setF rd (plainAverage (s.F rs1) (s.F rs2) (s.F rs3) (s.F rs4)))
  else s.raiseErr .range (encode (.bavgp rd rs1 rs2 rs3 rs4))

end Sys2Proof.Machine
end

