-- ==== Sys2Proof/Machine/FieldArith.lean ====
section
/-! DEFINITION. The field arithmetic commands FADD, FSUB, FMUL and FINV (spec 41_field_arith.md). -/

namespace Sys2Proof.Machine

/-- FADD Fd, Fa, Fb (R111). -/
def execFadd (rd rs1 rs2 : Reg) (s : State) : Result := .next (s.setF rd (fieldAdd (s.F rs1) (s.F rs2)))

/-- FSUB Fd, Fa, Fb (R112). -/
def execFsub (rd rs1 rs2 : Reg) (s : State) : Result := .next (s.setF rd (fieldSub (s.F rs1) (s.F rs2)))

/-- FMUL Fd, Fa, Fb (R113). -/
def execFmul (rd rs1 rs2 : Reg) (s : State) : Result := .next (s.setF rd (fieldMul (s.F rs1) (s.F rs2)))

/-- FINV Fd, Fn (R114): DOMAIN when n = 0 (R116), else the inverse. -/
def execFinv (rd rs1 : Reg) (s : State) : Result :=
  if s.F rs1 = 0 then s.raiseErr .domain (encode (.finv rd rs1))
  else .next (s.setF rd (fieldInv (s.F rs1)))

end Sys2Proof.Machine
end

