-- ==== Sys2Proof/Machine/Flags.lean ====
section
/-! DEFINITION. Every flag computation of the unit and the STATUS word (spec 10_state.md R25 to R31, R37). -/

namespace Sys2Proof.Machine

/-- CLAMPCNT + 1, saturating at 2^32 − 1 (R31, R222). -/
def saturatingSucc (n : Word) : Word := if n.toNat < 2 ^ 32 - 1 then n + 1#32 else n

/-- `warn Clamp` (R222): STATUS.WARN_CLAMP <- 1 and CLAMPCNT counts; the command continues. -/
def State.warnClampEvent (s : State) : State :=
  { s with warnClamp := true, clampCnt := saturatingSucc s.clampCnt }

/-- Whether adding d to ACC wraps: `t ≥ 2^32` (R170, R171). -/
def accWraps (acc : Word) (d : Nat) : Bool := decide (2 ^ 32 ≤ acc.toNat + d)

/-- Add one term to ACC (R170): ACC keeps the low 32 bits, and ACC_OVF is set on a wrap and otherwise kept (R28). -/
def State.accumulate (s : State) (d : Nat) : State :=
  { s with acc := BitVec.ofNat 32 (s.acc.toNat + d), accOvf := s.accOvf || accWraps s.acc d }

/-- The number of an error code (R211). -/
def ErrCode.toBits : ErrCode → BitVec 4
  | .none => 0#4
  | .illegal => 1#4
  | .range => 2#4
  | .domain => 3#4
  | .dupx => 4#4

/-- What a read of STATUS returns: {24'b0, ERRCODE, 1'b0, ACC_OVF, WARN_CLAMP, ERR} (R25, R51). -/
def State.statusWord (s : State) : Word :=
  (0#24 ++ s.errCode.toBits ++ 0#1 ++ BitVec.ofBool s.accOvf ++ BitVec.ofBool s.warnClamp ++ BitVec.ofBool s.err)

end Sys2Proof.Machine
end

