-- ==== Sys2Proof/Machine/Lagrange.lean ====
section
/-! DEFINITION. The Lagrange coefficient generator LAGC, the interpolator LINT and the decode-path clamp BCLMP (spec
43_lagrange.md). -/

namespace Sys2Proof.Machine

/-- LAGC Fd, Fxi, Fxj (R140): DUPX when the coordinates are equal, before any inverse is formed (R141). -/
def execLagc (rd rs1 rs2 : Reg) (s : State) : Result :=
  if s.F rs1 = s.F rs2 then s.raiseErr .dupx (encode (.lagc rd rs1 rs2))
  else .next (s.setF rd (lagrangeBasis (s.F rs1) (s.F rs2)))

/-- LINT Fd, Fy1, Fb1, Fy2, Fb2 (R143): the raw field value, not clamped (R144). -/
def execLint (rd rs1 rs2 rs3 rs4 : Reg) (s : State) : Result :=
  .next (s.setF rd (interpolate (s.F rs1) (s.F rs2) (s.F rs3) (s.F rs4)))

/-- BCLMP Fd, Fs (R146): a value over 255 becomes 255 with a clamp warning; not a truncation (R134, R147). -/
def execBclmp (rd rs1 : Reg) (s : State) : Result :=
  if isByte (s.F rs1) then .next (s.setF rd (s.F rs1))
  else .next (s.setF rd 255).warnClampEvent

end Sys2Proof.Machine
end

