-- ==== Sys2Proof/Machine/Moves.lean ====
section
/-! DEFINITION. The operand movement commands NOP, LDI and MOV (spec 40_moves.md). In this and every family file the
sources are read from the state before the one write (R100). -/

namespace Sys2Proof.Machine

/-- NOP (R101): `skip`. -/
def execNop (s : State) : Result := .next s

/-- LDI Fd, imm (R102): RANGE when imm9 is no field element, else F[rd] <- imm9. -/
def execLdi (rd : Reg) (imm9 : Nat) (s : State) : Result :=
  match immediateElement imm9 with
  | none => s.raiseErr .range (encode (.ldi rd imm9))
  | some v => .next (s.setF rd v)

/-- MOV Fd, Fs (R103). -/
def execMov (rd rs1 : Reg) (s : State) : Result := .next (s.setF rd (s.F rs1))

end Sys2Proof.Machine
end

