-- ==== Sys2Proof/Machine/Sad.lean ====
section
/-! DEFINITION. The sum-of-absolute-differences accumulator: SADACC and ACCCLR (spec 45_sad.md). -/

namespace Sys2Proof.Machine

/-- SADACC Fa, Fb (R170): RANGE when an operand is no byte, else ACC takes one more term. -/
def execSadacc (rs1 rs2 : Reg) (s : State) : Result :=
  if isByte (s.F rs1) && isByte (s.F rs2) then .next (s.accumulate (absDiff (s.F rs1) (s.F rs2)))
  else s.raiseErr .range (encode (.sadacc rs1 rs2))

/-- ACCCLR (R172): ACC <- 0, ACC_OVF kept. -/
def execAccclr (s : State) : Result := .next (s.setAcc 0#32)

end Sys2Proof.Machine
end

