-- ==== Sys2Proof/Machine/ShareEval.lean ====
section
/-! DEFINITION. The polynomial evaluator PEVAL and the encode-path byte conversion BTRUNC (spec 42_share_eval.md). -/

namespace Sys2Proof.Machine

/-- PEVAL Fd, Fa0, Fa1, Fx (R130): no operand is checked (R132). -/
def execPeval (rd rs1 rs2 rs3 : Reg) (s : State) : Result :=
  .next (s.setF rd (horner (s.F rs1) (s.F rs2) (s.F rs3)))

/-- BTRUNC Fd, Fs (R133): truncation, with no warning; not a clamp (R134). -/
def execBtrunc (rd rs1 : Reg) (s : State) : Result := .next (s.setF rd (truncateByte (s.F rs1)))

end Sys2Proof.Machine
end

