-- ==== Sys2Proof/Machine/Dispatch.lean ====
section
/-! DEFINITION. The dispatch: one arm per command (spec 30_encoding.md R86, R90 "execute the rule of op"). -/

namespace Sys2Proof.Machine

/-- Execute one decoded command. -/
def exec (i : Instr) (s : State) : Host.Outcome State Fault Refusal :=
  match i with
  | .nop => Sys2Proof.Machine.execNop s
  | .ldi rd imm9 => Sys2Proof.Machine.execLdi rd imm9 s
  | .mov rd rs1 => Sys2Proof.Machine.execMov rd rs1 s
  | .fadd rd rs1 rs2 => Sys2Proof.Machine.execFadd rd rs1 rs2 s
  | .fsub rd rs1 rs2 => Sys2Proof.Machine.execFsub rd rs1 rs2 s
  | .fmul rd rs1 rs2 => Sys2Proof.Machine.execFmul rd rs1 rs2 s
  | .finv rd rs1 => Sys2Proof.Machine.execFinv rd rs1 s
  | .peval rd rs1 rs2 rs3 => Sys2Proof.Machine.execPeval rd rs1 rs2 rs3 s
  | .btrunc rd rs1 => Sys2Proof.Machine.execBtrunc rd rs1 s
  | .lagc rd rs1 rs2 => Sys2Proof.Machine.execLagc rd rs1 rs2 s
  | .lint rd rs1 rs2 rs3 rs4 => Sys2Proof.Machine.execLint rd rs1 rs2 rs3 rs4 s
  | .bclmp rd rs1 => Sys2Proof.Machine.execBclmp rd rs1 s
  | .bavgf rd rs1 rs2 rs3 rs4 => Sys2Proof.Machine.execBavgf rd rs1 rs2 rs3 rs4 s
  | .bavgp rd rs1 rs2 rs3 rs4 => Sys2Proof.Machine.execBavgp rd rs1 rs2 rs3 rs4 s
  | .sadacc rs1 rs2 => Sys2Proof.Machine.execSadacc rs1 rs2 s
  | .accclr => Sys2Proof.Machine.execAccclr s

end Sys2Proof.Machine
end

