-- ==== Sys2Proof/Machine/Bus.lean ====
section
/-! DEFINITION. The register window: what each bus access does (spec 20_memory.md), the command port among it, and the
reset input (70_reset_and_hazards.md R240 to R243). -/

namespace Sys2Proof.Machine

/-! ### Reads (R51, R54, R60, R62 to R64) -/

/-- What a read of the aligned offset `off` returns. -/
def busRead (off : Nat) (s : State) : Word :=
  match off with
  | 0x00 => Config.idValue
  | 0x04 => 0#32
  | 0x08 => s.statusWord
  | 0x0C => s.lastCmd
  | 0x10 => s.acc
  | 0x14 => s.errInfo
  | 0x18 => s.clampCnt
  | 0x20 => BitVec.ofNat 32 (s.F 0).val
  | 0x24 => BitVec.ofNat 32 (s.F 1).val
  | 0x28 => BitVec.ofNat 32 (s.F 2).val
  | 0x2C => BitVec.ofNat 32 (s.F 3).val
  | 0x30 => BitVec.ofNat 32 (s.F 4).val
  | 0x34 => BitVec.ofNat 32 (s.F 5).val
  | 0x38 => BitVec.ofNat 32 (s.F 6).val
  | 0x3C => BitVec.ofNat 32 (s.F 7).val
  | _ => 0#32

/-! ### Writes -/

/-- Execute one command word (R90): an illegal word raises ILLEGAL, a legal one runs the rule of its command. -/
def executeWord (cmd : Word) (s : State) : Result :=
  match decode cmd with
  | .illegal _ => s.raiseErr .illegal cmd
  | .command i => exec i s

/-- A write of CMD (R55): `LASTCMD <- w`, then w is executed to completion. -/
def commandWrite (w : Word) (s : State) : Result := executeWord w (s.setLastCmd w)

/-- A write of STATUS (R56): write 1 to clear on bits 2:0, everything else ignored. -/
def statusWrite (w : Word) (s : State) : State :=
  let s1 := if w.getLsbD 0 then s.clearError else s
  let s2 := if w.getLsbD 1 then s1.clearWarnClamp else s1
  if w.getLsbD 2 then s2.clearAccOvf else s2

/-- A write of CTRL (R57): bit 0 = 1 resets the unit, otherwise nothing happens. -/
def ctrlWrite (w : Word) (s : State) : State := if w.getLsbD 0 then s.resetUnit else s

/-- `BusWrite(off, w)` at an aligned offset of the window (R51); a write to any other register or to a reserved offset is
ignored (R54, R58). -/
def busWrite (off : Nat) (w : Word) (s : State) : Result :=
  match off with
  | 0x04 => .next (ctrlWrite w s)
  | 0x08 => .next (statusWrite w s)
  | 0x0C => commandWrite w s
  | 0x10 => .next (s.setAcc w)
  | 0x18 => .next (s.setClampCnt w)
  | _ => .next s

/-! ### Accesses and events -/

/-- Why an access is outside the interface, if it is. The order of the checks is the model's (log 5): a second host
(R227), the reset input asserted (R243), a narrow access, a misaligned one (R52). -/
def accessRefusal (a : Access) (s : State) : Option Refusal :=
  if a.master ≠ .host then some .secondMaster
  else if s.resetLine then some .accessDuringReset
  else if a.width ≠ .word then some .narrowAccess
  else if a.off % 4 ≠ 0 then some .misalignedAccess
  else none

/-- One bus access: refused where it is outside the interface, a fault outside the window (R50), else the read or write.
A read changes nothing of the unit (R59); its word joins the host's observation. -/
def access (a : Access) (s : State) : Result :=
  match accessRefusal a s with
  | some r => .refused r
  | none =>
    if 0x100 ≤ a.off then .fault .outsideWindow
    else
      match a.kind with
      | .read => .next (s.logRead (busRead a.off s))
      | .write w => busWrite a.off w s

/-- One event of the outside world. Asserting the reset input resets the unit (R240, R241); releasing it changes no
register. -/
def takeEvent (e : BusEvent) (s : State) : Result :=
  match e with
  | .access a => access a s
  | .assertReset => .next (s.resetUnit.setResetLine true)
  | .releaseReset => .next (s.setResetLine false)

/-- The host's 32-bit read of an offset, as an event. -/
def hostReadAt (off : Nat) : BusEvent :=
  .access { master := .host, width := .word, off := off, kind := .read }

/-- The host's 32-bit write of an offset, as an event. -/
def hostWriteAt (off : Nat) (w : Word) : BusEvent :=
  .access { master := .host, width := .word, off := off, kind := .write w }

/-- The host's write of a command word to CMD, as an event (R34, R55). -/
def hostCommand (w : Word) : BusEvent := hostWriteAt 0x0C w

/-- The offset of the bus read of field register r, 0x20 + 4·r (R63). -/
def fieldOffset (r : Reg) : Nat := 0x20 + 4 * r.val

/-- Take a sequence of events in issue order (R65, R199). -/
def takeEvents : List BusEvent → State → Result
  | [], s => .next s
  | e :: es, s =>
    match takeEvent e s with
    | .next t => takeEvents es t
    | .fault r => .fault r
    | .refused r => .refused r

/-! ### Where the window stands (R50, R53) -/

/-- The offset of a byte of the host's address space in the window, none outside it (R50, R71). -/
def windowOffset (addr : Nat) : Option Nat :=
  if Config.base ≤ addr ∧ addr < Config.base + 0x100 then some (addr - Config.base) else none

/-- The byte a bus that numbers byte lanes shows at a host address: "the byte at byte address BASE + off + j, j = 0..3, is
bits [8j+7 : 8j] of the register at off" (R53). A view for claims; an access is always a whole word (R52). -/
def windowByte (addr : Nat) (s : State) : Option Byte :=
  (windowOffset addr).map fun o => laneOf (busRead (4 * (o / 4)) s) (o % 4)

end Sys2Proof.Machine
end

