-- ==== Sys2Proof/Machine/Step.lean ====
section
/-! DEFINITION. One step of the machine: the unit takes the oldest pending event (spec 10_state.md R20, R21, 20_memory.md
R65, 70_reset_and_hazards.md R250). -/

namespace Sys2Proof.Machine

/-- One step. With nothing pending the unit "waits for the host's first access" (R242) and keeps all its state (R229,
log 1). -/
def step (s : State) : Host.Outcome State Fault Refusal :=
  match s.pending with
  | [] => .next s
  | e :: rest => takeEvent e (s.setPending rest)

/-- s with the host about to write the command word w to CMD, so that the very next step runs it (log 2). The unit fetches
nothing (R21, R68): the host's next access is where its next command comes from. The reset input is released, since an
access while it is asserted is refused (R243). -/
def State.withFetchWord (s : State) (nbits w : Nat) : State :=
  (s.setResetLine false).setPending (hostCommand (BitVec.ofNat 32 (w % 2 ^ nbits)) :: s.pending)

end Sys2Proof.Machine
end

