-- ==== Sys2Proof/Machine/Assembler.lean ====
section
/-! DEFINITION. The assembler syntax and the pseudo-instructions (spec 30_encoding.md R91, R92). Text is a list of
characters; the points the syntax leaves open are named in log 15. -/

namespace Sys2Proof.Machine

/-! ### Pseudo-instructions (R92) -/

/-- The four pseudo-instructions. "No other pseudo-instruction exists" (R92). -/
inductive Pseudo where
  | clr (rd : Reg)
  | fdbl (rd rs : Reg)
  | fsqr (rd rs : Reg)
  | ldinv4 (rd : Reg)
  deriving DecidableEq, Repr

/-- The one-command expansion (R92). -/
def Pseudo.expand : Pseudo → Instr
  | .clr rd => .ldi rd 0
  | .fdbl rd rs => .fadd rd rs rs
  | .fsqr rd rs => .fmul rd rs rs
  | .ldinv4 rd => .ldi rd 193

/-! ### Assembly text (R91) -/

/-- White space between the parts of a line. -/
def isBlank (c : Char) : Bool := c == ' ' || c == '\t'

/-- A text without blanks at its ends. -/
def trimBlanks (t : List Char) : List Char :=
  ((t.dropWhile isBlank).reverse.dropWhile isBlank).reverse

/-- The value of a digit in a base up to 16. -/
def digitValue (base : Nat) (c : Char) : Option Nat :=
  let n :=
    if '0' ≤ c ∧ c ≤ '9' then c.toNat - '0'.toNat
    else if 'a' ≤ c ∧ c ≤ 'f' then c.toNat - 'a'.toNat + 10
    else if 'A' ≤ c ∧ c ≤ 'F' then c.toNat - 'A'.toNat + 10
    else 16
  if n < base then some n else none

/-- The digits of a number in a base, the most significant first, on top of the value read so far. -/
def digitsValue (base : Nat) : List Char → Nat → Option Nat
  | [], n => some n
  | c :: cs, n => (digitValue base c).bind fun d => digitsValue base cs (n * base + d)

/-- "the LDI immediate as a decimal or `0x` hexadecimal number" (R91). -/
def parseImmediate : List Char → Option Nat
  | '0' :: 'x' :: c :: cs => digitsValue 16 (c :: cs) 0
  | c :: cs => digitsValue 10 (c :: cs) 0
  | [] => none

/-- "registers spelled `F0` to `F7`" (R91). -/
def parseReg : List Char → Option Reg
  | ['F', c] => (digitValue 8 c).map (Fin.ofNat 8)
  | _ => none

/-- The mnemonics of the commands (R91). -/
def mnemonicTable : List (List Char × Command) :=
  [(['N', 'O', 'P'], .nop), (['L', 'D', 'I'], .ldi), (['M', 'O', 'V'], .mov),
    (['F', 'A', 'D', 'D'], .fadd), (['F', 'S', 'U', 'B'], .fsub), (['F', 'M', 'U', 'L'], .fmul),
    (['F', 'I', 'N', 'V'], .finv), (['P', 'E', 'V', 'A', 'L'], .peval), (['B', 'T', 'R', 'U', 'N', 'C'], .btrunc),
    (['L', 'A', 'G', 'C'], .lagc), (['L', 'I', 'N', 'T'], .lint), (['B', 'C', 'L', 'M', 'P'], .bclmp),
    (['B', 'A', 'V', 'G', 'F'], .bavgf), (['B', 'A', 'V', 'G', 'P'], .bavgp), (['S', 'A', 'D', 'A', 'C', 'C'], .sadacc),
    (['A', 'C', 'C', 'C', 'L', 'R'], .accclr)]

/-- A command from register operands in the order of R91; LDI, whose second operand is no register, is read by
`assembleOperands`. -/
def withRegisters : Command → List Reg → Option Instr
  | .nop, [] => some .nop
  | .mov, [d, a] => some (.mov d a)
  | .fadd, [d, a, b] => some (.fadd d a b)
  | .fsub, [d, a, b] => some (.fsub d a b)
  | .fmul, [d, a, b] => some (.fmul d a b)
  | .finv, [d, a] => some (.finv d a)
  | .peval, [d, a, b, c] => some (.peval d a b c)
  | .btrunc, [d, a] => some (.btrunc d a)
  | .lagc, [d, a, b] => some (.lagc d a b)
  | .lint, [d, a, b, c, e] => some (.lint d a b c e)
  | .bclmp, [d, a] => some (.bclmp d a)
  | .bavgf, [d, a, b, c, e] => some (.bavgf d a b c e)
  | .bavgp, [d, a, b, c, e] => some (.bavgp d a b c e)
  | .sadacc, [a, b] => some (.sadacc a b)
  | .accclr, [] => some .accclr
  | _, _ => none

/-- A command from the texts of its operands; "An assembler rejects an LDI immediate above 256" (R91). -/
def assembleOperands : Command → List (List Char) → Option Instr
  | .ldi, [d, v] =>
    (parseReg d).bind fun rd => (parseImmediate v).bind fun n => if n ≤ 256 then some (.ldi rd n) else none
  | c, ops => (ops.mapM parseReg).bind (withRegisters c)

/-- A pseudo-instruction from its name and operands (R92). -/
def assemblePseudo (name : List Char) (ops : List (List Char)) : Option Instr :=
  (ops.mapM parseReg).bind fun rs =>
    match rs with
    | [d] =>
      if name = ['C', 'L', 'R'] then some (Pseudo.clr d).expand
      else if name = ['L', 'D', 'I', 'N', 'V', '4'] then some (Pseudo.ldinv4 d).expand
      else none
    | [d, a] =>
      if name = ['F', 'D', 'B', 'L'] then some (Pseudo.fdbl d a).expand
      else if name = ['F', 'S', 'Q', 'R'] then some (Pseudo.fsqr d a).expand
      else none
    | _ => none

/-- What a line assembles to. -/
inductive AsmLine where
  /-- Only blanks or a comment. -/
  | empty
  | command (i : Instr)
  | rejected
  deriving DecidableEq, Repr

/-- The comma-separated operands of a line, none for an empty text. -/
def operandTexts (t : List Char) : List (List Char) :=
  if t = [] then [] else (t.splitOn ',').map trimBlanks

/-- One line of assembly: the mnemonic, then its operands separated by commas; `;` begins a comment (R91). -/
def assembleLine (line : List Char) : AsmLine :=
  let code := trimBlanks (line.takeWhile (· != ';'))
  let name := code.takeWhile fun c => !isBlank c
  let ops := operandTexts (trimBlanks (code.dropWhile fun c => !isBlank c))
  if code = [] then .empty
  else
    match mnemonicTable.lookup name with
    | some c => (assembleOperands c ops).elim .rejected .command
    | none => (assemblePseudo name ops).elim .rejected .command

end Sys2Proof.Machine
end

