-- ==== Sys2Proof/Machine/Procedures.lean ====
section
/-! DEFINITION. The reference host procedures (spec 48_host_procedures.md): host code over the register window. "These
procedures are not hardware: they are the reference programs and observations a model of the unit is checked against".
Each is written over the same bus events a step takes, so whatever it does to the unit is what the steps do. Bytes are
visited in ascending order (R181). -/

namespace Sys2Proof.Machine

/-! ### What a procedure answers -/

/-- The fatal conditions of a procedure (R182, R198): "the procedure stops and returns the error … and no output". -/
inductive HostError where
  /-- k is not 2 (R183). -/
  | badThreshold
  /-- n is not 3 (R183). -/
  | badShareNumber
  /-- Not exactly two shares (R186). -/
  | shareCount
  /-- Payloads of different lengths (R186). -/
  | lengthMismatch
  /-- Equal x-coordinates (R186). -/
  | duplicateCoordinate
  /-- An x-coordinate outside 1 to 3 (R186). -/
  | coordinateRange
  /-- bitsPerPixel is not 24 (R189). -/
  | bitDepth
  /-- An odd width or height (R189). -/
  | oddSize
  /-- "Invalid input size: payload missing or too small" (R189). -/
  | payloadTooSmall
  /-- A row stride shorter than its pixels (R189, R193, log 13). -/
  | badStride
  /-- Different logical dimensions (R195). -/
  | dimensionMismatch
  /-- STATUS.ERR = 1: the code from ERRCODE (R182). -/
  | unit (code : BitVec 4)
  deriving DecidableEq, Repr

/-- The warnings of a procedure, which let it finish (R182). -/
inductive HostWarning where
  /-- The number of clamped positions, from CLAMPCNT (R187). -/
  | clamped (count : Nat)
  /-- The compared sequences differ in length (R196). -/
  | lengthMismatch
  deriving DecidableEq, Repr

/-- How a procedure ends. -/
inductive ProcResult (α : Type) where
  | done (value : α) (warnings : List HostWarning) (s : State)
  | fatal (e : HostError) (s : State)
  /-- The machine faulted on an access of the procedure. -/
  | fault (r : Fault)
  /-- The model refused an access of the procedure. -/
  | refused (r : Refusal)
  deriving DecidableEq, Repr

/-- A part of a procedure: a value for the host and the machine after it. -/
abbrev HostStep (α : Type) := Host.Outcome (α × State) Fault Refusal

/-- Go on with a value and the machine after it. -/
def andThen {α β : Type} (r : HostStep α) (k : α → State → HostStep β) : HostStep β :=
  match r with
  | .next (a, t) => k a t
  | .fault f => .fault f
  | .refused f => .refused f

/-- Accesses that return nothing to the host, as a part of a procedure. -/
def noValue (r : Result) : HostStep Unit :=
  match r with
  | .next t => .next ((), t)
  | .fault f => .fault f
  | .refused f => .refused f

/-- End a procedure with what a part of it answered. -/
def endWith {α β : Type} (r : HostStep α) (k : α → State → ProcResult β) : ProcResult β :=
  match r with
  | .next (a, t) => k a t
  | .fault f => .fault f
  | .refused f => .refused f

/-! ### The host's accesses -/

/-- `issue <command>`, `BusWrite(0x0C, word)`, for each command in turn. -/
def issueAll (is : List Instr) (s : State) : HostStep Unit :=
  noValue (takeEvents (is.map fun i => hostCommand (encode i)) s)

/-- `BusRead(off)`. -/
def readWord (off : Nat) (s : State) : HostStep Word :=
  andThen (noValue (takeEvent (hostReadAt off) s)) fun _ t => .next (busRead off s, t)

/-- `readF(i)` for `BusRead(0x20 + 4·i)[8:0]`. -/
def readF (r : Reg) (s : State) : HostStep Nat :=
  andThen (readWord (fieldOffset r) s) fun w t => .next ((w.extractLsb' 0 9).toNat, t)

/-- Issue commands, then read a byte result from a field register (R63). -/
def computeByte (is : List Instr) (r : Reg) (s : State) : HostStep Byte :=
  andThen (issueAll is s) fun _ t => andThen (readF r t) fun n u => .next (BitVec.ofNat 8 n, u)

/-- One byte for each list of commands, in ascending order of positions (R181). -/
def computeBytes (r : Reg) : List (List Instr) → State → HostStep (List Byte)
  | [], s => .next ([], s)
  | is :: rest, s =>
    andThen (computeByte is r s) fun b t => andThen (computeBytes r rest t) fun bs u => .next (b :: bs, u)

/-- "Before a procedure starts the host writes STATUS = 0x7 (clearing ERR, WARN_CLAMP, ACC_OVF) and CLAMPCNT = 0"
(R182). -/
def beginProcedure (s : State) : HostStep Unit :=
  noValue (takeEvents [hostWriteAt 0x08 7#32, hostWriteAt 0x18 0#32] s)

/-- The end of a procedure: STATUS.ERR = 1 is fatal, with the code from ERRCODE and no output (R182).
DESIGN CHOICE (log 10): STATUS is read once, after the last command. -/
def conclude {α : Type} (value : α) (warnings : List HostWarning) (s : State) : ProcResult α :=
  endWith (readWord 0x08 s) fun w t =>
    if w.getLsbD 0 then .fatal (.unit (w.extractLsb' 4 4)) t else .done value warnings t

/-! ### Share generation (R183 to R185) -/

/-- The three share bytes of one secret byte, at x = 1, 2, 3 (R183). -/
def shareByte (secret : Byte) (a1 : GF) (s : State) : HostStep (List Byte) :=
  andThen (issueAll [.ldi 0 secret.toNat, .ldi 1 a1.val] s) fun _ t =>
    computeBytes 3 ([1, 2, 3].map fun x => [.ldi 2 x, .peval 3 0 1 2, .btrunc 3 3]) t

/-- The share bytes of each position from i on; `rng i` is the coefficient drawn for position i (R184). -/
def generateLoop (rng : Nat → GF) : List Byte → Nat → State → HostStep (List (List Byte))
  | [], _, s => .next ([], s)
  | b :: bs, i, s =>
    andThen (shareByte b (rng i) s) fun ys t =>
      andThen (generateLoop rng bs (i + 1) t) fun rest u => .next (ys :: rest, u)

/-- The share at index j of the rows of share bytes, tagged with its x-coordinate j + 1. -/
def shareColumn (rows : List (List Byte)) (j : Nat) : Nat × List Byte := (j + 1, rows.map fun ys => ys.getD j 0)

/-- `generate(secret, n, k, rng)` (R183). The coefficients are an argument, "a free draw in 0..256 under no law" (R184). -/
def generate (secret : List Byte) (n k : Nat) (rng : Nat → GF) (s : State) : ProcResult (List (Nat × List Byte)) :=
  if k ≠ Config.K then .fatal .badThreshold s
  else if n ≠ Config.N then .fatal .badShareNumber s
  else
    endWith (andThen (beginProcedure s) fun _ t => generateLoop rng secret 0 t) fun rows u =>
      conclude ((List.range n).map (shareColumn rows)) [] u

/-! ### Reconstruction (R186 to R188) -/

/-- Whether an x-coordinate is one of 1, 2, 3 (R186). -/
def isShareCoordinate (x : Nat) : Bool := decide (1 ≤ x ∧ x ≤ Config.N)

/-- The commands that reconstruct one position from its two share bytes, the coefficients in F2 and F3 (R186). -/
def reconstructCommands (y1 y2 : Byte) : List Instr :=
  [.ldi 4 y1.toNat, .ldi 5 y2.toNat, .lint 6 4 2 5 3, .bclmp 6 6]

/-- The commands that compute the two coefficients (R186). -/
def coefficientCommands (x1 x2 : Nat) : List Instr := [.ldi 0 x1, .ldi 1 x2, .lagc 2 0 1, .lagc 3 1 0]

/-- The clamp warning of a reconstruction, if any position was clamped (R187). DESIGN CHOICE (log 16): the host warns when
the CLAMPCNT it read is not 0, not on WARN_CLAMP. -/
def clampWarnings (count : Word) : List HostWarning :=
  if count = 0#32 then [] else [.clamped count.toNat]

/-- `reconstruct(shares)` (R186): exactly two shares of equal lengths with distinct x-coordinates in 1 to 3. DESIGN CHOICE
(log 16): the host reads CLAMPCNT once, after the last position and before it reads STATUS. -/
def reconstruct (shares : List (Nat × List Byte)) (s : State) : ProcResult (List Byte) :=
  match shares with
  | [(x1, ys1), (x2, ys2)] =>
    if ys1.length ≠ ys2.length then .fatal .lengthMismatch s
    else if x1 = x2 then .fatal .duplicateCoordinate s
    else if !(isShareCoordinate x1 && isShareCoordinate x2) then .fatal .coordinateRange s
    else
      endWith
        (andThen (beginProcedure s) fun _ t =>
          andThen (issueAll (coefficientCommands x1 x2) t) fun _ u =>
            andThen (computeBytes 6 (List.zipWith reconstructCommands ys1 ys2) u) fun out v =>
              andThen (readWord 0x18 v) fun count w => .next ((out, count), w))
        fun r u => conclude r.1 (clampWarnings r.2) u
  | _ => .fatal .shareCount s

/-! ### Downscale (R189 to R194) -/

/-- A raster as the codec gives it: width, height and bits per pixel, the input row stride S and the output row stride S'
(R189, R193). -/
structure RasterShape where
  width : Nat
  height : Nat
  bitsPerPixel : Nat
  stride : Nat
  outStride : Nat
  deriving DecidableEq, Repr

/-- The preconditions of a downscale, the first that fails (R189; the strides: log 13). -/
def RasterShape.problem (r : RasterShape) (payload : List Byte) : Option HostError :=
  if r.bitsPerPixel ≠ 24 then some .bitDepth
  else if r.width % 2 ≠ 0 ∨ r.height % 2 ≠ 0 then some .oddSize
  else if r.stride < 3 * r.width ∨ r.outStride < 3 * (r.width / 2) then some .badStride
  else if payload.length < r.height * r.stride then some .payloadTooSmall
  else none

/-- The payload index of channel c of pixel (px, py): `py·S + 3·px + c` (R189). -/
def RasterShape.index (r : RasterShape) (px py c : Nat) : Nat := py * r.stride + 3 * px + c

/-- LDI of the four values p1 to p4 of channel c of output pixel (ox, oy) into F0 to F3 (R190, R191). -/
def blockLoads (r : RasterShape) (payload : List Byte) (ox oy c : Nat) : List Instr :=
  [.ldi 0 (payload.getD (r.index (2 * ox) (2 * oy) c) 0).toNat,
    .ldi 1 (payload.getD (r.index (2 * ox + 1) (2 * oy) c) 0).toNat,
    .ldi 2 (payload.getD (r.index (2 * ox) (2 * oy + 1) c) 0).toNat,
    .ldi 3 (payload.getD (r.index (2 * ox + 1) (2 * oy + 1) c) 0).toNat]

/-- The channels of the output raster in ascending order of their places: (oy, ox, c) (R191). -/
def RasterShape.places (r : RasterShape) : List (Nat × Nat × Nat) :=
  (List.range (r.height / 2)).flatMap fun oy =>
    (List.range (r.width / 2)).flatMap fun ox => (List.range 3).map fun c => (oy, ox, c)

/-- Lay the averaged bytes out in rows of stride S'; the padding bytes are the codec's (R193), an argument. -/
def RasterShape.layOut (r : RasterShape) (bytes : List Byte) (padding : Nat → Byte) : List Byte :=
  (List.range (r.height / 2 * r.outStride)).map fun p =>
    let row := p / r.outStride
    let col := p % r.outStride
    if col < 3 * (r.width / 2) then bytes.getD (row * (3 * (r.width / 2)) + col) 0 else padding p

/-- The loop both downscales share: load a block, average it into F4 by the given commands, read F4 (R191, R192). -/
def downscale (average : List Instr) (r : RasterShape) (payload : List Byte) (padding : Nat → Byte) (s : State) :
    ProcResult (List Byte) :=
  match r.problem payload with
  | some e => .fatal e s
  | none =>
    endWith
      (andThen (beginProcedure s) fun _ t =>
        computeBytes 4 (r.places.map fun p => blockLoads r payload p.2.1 p.1 p.2.2 ++ average) t)
      fun bytes u => conclude (r.layOut bytes padding) [] u

/-- `downscaleField` of one share (R191): BAVGF, then BTRUNC. -/
def downscaleField (r : RasterShape) (payload : List Byte) (padding : Nat → Byte) (s : State) : ProcResult (List Byte) :=
  downscale [.bavgf 4 0 1 2 3, .btrunc 4 4] r payload padding s

/-- `downscalePlain` of the secret (R192): BAVGP, no BTRUNC. -/
def downscalePlain (r : RasterShape) (payload : List Byte) (padding : Nat → Byte) (s : State) : ProcResult (List Byte) :=
  downscale [.bavgp 4 0 1 2 3] r payload padding s

/-! ### Sum of absolute errors (R195 to R197) -/

/-- How many pairs the host accumulates before it folds ACC into its own total: 16 843 009 (R171, R195, R197). -/
def foldEvery : Nat := 16843009

/-- The commands that accumulate one pair of bytes (R195). -/
def saeCommands (a b : Byte) : List Instr := [.ldi 0 a.toNat, .ldi 1 b.toNat, .sadacc 0 1]

/-- The loop over the compared pairs, from position i on with the host's total so far (R195). -/
def saeLoop : List (Byte × Byte) → Nat → Nat → State → HostStep Nat
  | [], _, total, s => andThen (readWord 0x10 s) fun w t => .next (total + w.toNat, t)
  | (a, b) :: rest, i, total, s =>
    andThen (issueAll (saeCommands a b) s) fun _ t =>
      if (i + 1) % foldEvery = 0 then
        andThen (readWord 0x10 t) fun w u =>
          andThen (issueAll [.accclr] u) fun _ v => saeLoop rest (i + 1) (total + w.toNat) v
      else saeLoop rest (i + 1) total t

/-- `sae(A, WA, HA, B, WB, HB)` (R195): the overlapping prefix is compared, and a length mismatch is the host's warning
(R196). -/
def sae (as : List Byte) (wa ha : Nat) (bs : List Byte) (wb hb : Nat) (s : State) : ProcResult Nat :=
  if wa ≠ wb ∨ ha ≠ hb then .fatal .dimensionMismatch s
  else
    endWith
      (andThen (beginProcedure s) fun _ t =>
        andThen (issueAll [.accclr] t) fun _ u => saeLoop (as.zip bs) 0 0 u)
      fun total v => conclude total (if as.length = bs.length then [] else [.lengthMismatch]) v

end Sys2Proof.Machine
end

