-- ==== Sys2Proof/Safety.lean ====
section
/-! DEFINITION. The terms claims are written in: what a command leaves unchanged, what an error is, what a consistent error
record is, and the tables of the spec copied as literals so that a claim does not rest on the model's own tables. -/

namespace Sys2Proof.Safety

open Sys2Proof.Machine

/-! ### Frames -/

/-- Every flag, ERRCODE, ERRINFO and CLAMPCNT unchanged: "Flags written: none" (40_moves.md, before R100). -/
def SameStatus (s t : State) : Prop :=
  t.err = s.err ∧ t.warnClamp = s.warnClamp ∧ t.accOvf = s.accOvf ∧ t.errCode = s.errCode ∧ t.errInfo = s.errInfo ∧
  t.clampCnt = s.clampCnt

/-- The outside world's side of the bus unchanged. -/
def SameOutside (s t : State) : Prop :=
  t.resetLine = s.resetLine ∧ t.pending = s.pending ∧ t.reads = s.reads

/-- Every field register unchanged. -/
def SameFields (s t : State) : Prop := ∀ r, t.F r = s.F r

/-- F[rd] holds v and every other field register is unchanged (R100 b). -/
def WritesField (rd : Reg) (v : Nat) (s t : State) : Prop := (t.F rd).val = v ∧ ∀ r, r ≠ rd → t.F r = s.F r

/-- F[rd] holds v and nothing else changed. -/
def OnlyWritesField (rd : Reg) (v : Nat) (s t : State) : Prop :=
  WritesField rd v s t ∧ t.acc = s.acc ∧ SameStatus s t ∧ t.lastCmd = s.lastCmd ∧ SameOutside s t

/-- Nothing of the unit or of the outside world changed. -/
def NothingChanged (s t : State) : Prop :=
  SameFields s t ∧ t.acc = s.acc ∧ SameStatus s t ∧ t.lastCmd = s.lastCmd ∧ SameOutside s t

/-- An error of code c is recorded for the word cmd by R214, and nothing else changed (R213). -/
def OnlyRecordsError (c : ErrCode) (cmd : Word) (s t : State) : Prop :=
  t.err = true ∧ (s.err = false → t.errCode = c ∧ t.errInfo = cmd) ∧
  (s.err = true → t.errCode = s.errCode ∧ t.errInfo = s.errInfo) ∧
  SameFields s t ∧ t.acc = s.acc ∧ t.warnClamp = s.warnClamp ∧ t.accOvf = s.accOvf ∧ t.clampCnt = s.clampCnt ∧
  t.lastCmd = s.lastCmd ∧ SameOutside s t

/-- F[rd] holds 255, the clamp warning is recorded by R222, and nothing else changed. -/
def OnlyClamps (rd : Reg) (s t : State) : Prop :=
  WritesField rd 255 s t ∧ t.warnClamp = true ∧ t.clampCnt.toNat = min (s.clampCnt.toNat + 1) (2 ^ 32 - 1) ∧
  t.acc = s.acc ∧ t.err = s.err ∧ t.accOvf = s.accOvf ∧ t.errCode = s.errCode ∧ t.errInfo = s.errInfo ∧
  t.lastCmd = s.lastCmd ∧ SameOutside s t

/-- d is added to ACC by R170 and R171, and nothing else changed. -/
def OnlyAccumulates (d : Nat) (s t : State) : Prop :=
  t.acc.toNat = (s.acc.toNat + d) % 2 ^ 32 ∧ t.accOvf = (s.accOvf || decide (2 ^ 32 ≤ s.acc.toNat + d)) ∧
  SameFields s t ∧ t.err = s.err ∧ t.warnClamp = s.warnClamp ∧ t.errCode = s.errCode ∧ t.errInfo = s.errInfo ∧
  t.clampCnt = s.clampCnt ∧ t.lastCmd = s.lastCmd ∧ SameOutside s t

/-- Every register of the unit is 0 (R241). -/
def AllRegistersZero (t : State) : Prop :=
  (∀ r, t.F r = 0) ∧ t.acc = 0#32 ∧ t.err = false ∧ t.warnClamp = false ∧ t.accOvf = false ∧ t.errCode = .none ∧
  t.errInfo = 0#32 ∧ t.clampCnt = 0#32 ∧ t.lastCmd = 0#32

/-! ### Encodings -/

/-- The register a word names in the three bits from lo on (R83, R84). -/
def regAt (w : Word) (lo : Nat) : Reg := (w.extractLsb' lo 3).toFin

/-- The instruction a word of a command stands for: the column "fields used" of R86, each field at its bits of R83. -/
def withFieldsUsed (w : Word) : Command → Instr
  | .nop => .nop
  | .ldi => .ldi (regAt w 23) (w.extractLsb' 0 9).toNat
  | .mov => .mov (regAt w 23) (regAt w 20)
  | .fadd => .fadd (regAt w 23) (regAt w 20) (regAt w 17)
  | .fsub => .fsub (regAt w 23) (regAt w 20) (regAt w 17)
  | .fmul => .fmul (regAt w 23) (regAt w 20) (regAt w 17)
  | .finv => .finv (regAt w 23) (regAt w 20)
  | .peval => .peval (regAt w 23) (regAt w 20) (regAt w 17) (regAt w 14)
  | .btrunc => .btrunc (regAt w 23) (regAt w 20)
  | .lagc => .lagc (regAt w 23) (regAt w 20) (regAt w 17)
  | .lint => .lint (regAt w 23) (regAt w 20) (regAt w 17) (regAt w 14) (regAt w 11)
  | .bclmp => .bclmp (regAt w 23) (regAt w 20)
  | .bavgf => .bavgf (regAt w 23) (regAt w 20) (regAt w 17) (regAt w 14) (regAt w 11)
  | .bavgp => .bavgp (regAt w 23) (regAt w 20) (regAt w 17) (regAt w 14) (regAt w 11)
  | .sadacc => .sadacc (regAt w 20) (regAt w 17)
  | .accclr => .accclr

/-- The commands that write a field register, the one at rd, copied from R22. -/
def fieldWriters : List Command :=
  [.ldi, .mov, .fadd, .fsub, .fmul, .finv, .peval, .btrunc, .lagc, .lint, .bclmp, .bavgf, .bavgp]

/-- Executing the word w raises ILLEGAL and has no other effect (R87, R88, R213). -/
def RaisesIllegal (w : Word) : Prop := ∀ s, ∃ t, executeWord w s = .next t ∧ OnlyRecordsError .illegal w s t

/-- A command's encoding: the words its mask and match select are the instruction with the fields at their places, and
every other word of its opcode raises ILLEGAL (R86, R88). -/
def EncodedAs (opcode : BitVec 6) (matchWord mask : Word) (build : Word → Instr) : Prop :=
  (∀ w, w &&& mask = matchWord → decode w = .command (build w)) ∧
  ∀ w : Word, w.extractLsb' 26 6 = opcode → w &&& mask ≠ matchWord → RaisesIllegal w

/-- A row of the opcode table of the spec. -/
structure TableRow where
  command : Command
  opcode : BitVec 6
  matchWord : Word
  mask : Word
  deriving DecidableEq, Repr

/-- The opcode table, copied from R86. -/
def specTable : List TableRow :=
  [⟨.nop, 0x00#6, 0x00000000#32, 0xFFFFFFFF#32⟩, ⟨.ldi, 0x01#6, 0x04000000#32, 0xFC7FFE00#32⟩,
    ⟨.mov, 0x02#6, 0x08000000#32, 0xFC0FFFFF#32⟩, ⟨.fadd, 0x04#6, 0x10000000#32, 0xFC01FFFF#32⟩,
    ⟨.fsub, 0x05#6, 0x14000000#32, 0xFC01FFFF#32⟩, ⟨.fmul, 0x06#6, 0x18000000#32, 0xFC01FFFF#32⟩,
    ⟨.finv, 0x07#6, 0x1C000000#32, 0xFC0FFFFF#32⟩, ⟨.peval, 0x08#6, 0x20000000#32, 0xFC003FFF#32⟩,
    ⟨.btrunc, 0x09#6, 0x24000000#32, 0xFC0FFFFF#32⟩, ⟨.lagc, 0x0C#6, 0x30000000#32, 0xFC01FFFF#32⟩,
    ⟨.lint, 0x0D#6, 0x34000000#32, 0xFC0007FF#32⟩, ⟨.bclmp, 0x0E#6, 0x38000000#32, 0xFC0FFFFF#32⟩,
    ⟨.bavgf, 0x10#6, 0x40000000#32, 0xFC0007FF#32⟩, ⟨.bavgp, 0x11#6, 0x44000000#32, 0xFC0007FF#32⟩,
    ⟨.sadacc, 0x14#6, 0x50000000#32, 0xFF81FFFF#32⟩, ⟨.accclr, 0x15#6, 0x54000000#32, 0xFFFFFFFF#32⟩]

/-- The word of a Format R command by the formula of R93, as a number. -/
def wordR (opcode rd rs1 rs2 rs3 rs4 : Nat) : Word :=
  BitVec.ofNat 32
    (opcode * 2 ^ 26 + rd * 2 ^ 23 + rs1 * 2 ^ 20 + rs2 * 2 ^ 17 + rs3 * 2 ^ 14 + rs4 * 2 ^ 11)

/-- The word of LDI by the formula of R93, as a number. -/
def wordI (rd imm9 : Nat) : Word := BitVec.ofNat 32 (0x01 * 2 ^ 26 + rd * 2 ^ 23 + imm9)

/-- The word of each instruction by the formulas of R93 and the opcodes of R86. -/
def specWord : Instr → Word
  | .nop => wordR 0x00 0 0 0 0 0
  | .ldi rd imm9 => wordI rd.val imm9
  | .mov rd rs1 => wordR 0x02 rd.val rs1.val 0 0 0
  | .fadd rd rs1 rs2 => wordR 0x04 rd.val rs1.val rs2.val 0 0
  | .fsub rd rs1 rs2 => wordR 0x05 rd.val rs1.val rs2.val 0 0
  | .fmul rd rs1 rs2 => wordR 0x06 rd.val rs1.val rs2.val 0 0
  | .finv rd rs1 => wordR 0x07 rd.val rs1.val 0 0 0
  | .peval rd rs1 rs2 rs3 => wordR 0x08 rd.val rs1.val rs2.val rs3.val 0
  | .btrunc rd rs1 => wordR 0x09 rd.val rs1.val 0 0 0
  | .lagc rd rs1 rs2 => wordR 0x0C rd.val rs1.val rs2.val 0 0
  | .lint rd rs1 rs2 rs3 rs4 => wordR 0x0D rd.val rs1.val rs2.val rs3.val rs4.val
  | .bclmp rd rs1 => wordR 0x0E rd.val rs1.val 0 0 0
  | .bavgf rd rs1 rs2 rs3 rs4 => wordR 0x10 rd.val rs1.val rs2.val rs3.val rs4.val
  | .bavgp rd rs1 rs2 rs3 rs4 => wordR 0x11 rd.val rs1.val rs2.val rs3.val rs4.val
  | .sadacc rs1 rs2 => wordR 0x14 0 rs1.val rs2.val 0 0
  | .accclr => wordR 0x15 0 0 0 0 0

/-! ### Errors -/

/-- The number of an error code (R211). -/
def codeNumber : ErrCode → Nat
  | .none => 0
  | .illegal => 1
  | .range => 2
  | .domain => 3
  | .dupx => 4

/-- ERRCODE and ERRINFO are 0 while ERR = 0 (R29, R30), and ERR = 1 comes with the code of an error. -/
def ErrorRecordConsistent (s : State) : Prop :=
  (s.err = false → s.errCode = .none ∧ s.errInfo = 0#32) ∧ (s.err = true → s.errCode ≠ .none)

/-- The no-fault premise of 93_implementation_defined.md section 3: "STATUS.ERR = 0 at the end". -/
def NoErrorAtEnd (s : State) : Prop := s.err = false

/-- The one error beside ILLEGAL that a command can raise, if any (R212). -/
def onlyError : Instr → Option ErrCode
  | .nop => none
  | .ldi _ _ => some .range
  | .mov _ _ => none
  | .fadd _ _ _ => none
  | .fsub _ _ _ => none
  | .fmul _ _ _ => none
  | .finv _ _ => some .domain
  | .peval _ _ _ _ => none
  | .btrunc _ _ => none
  | .lagc _ _ _ => some .dupx
  | .lint _ _ _ _ _ => none
  | .bclmp _ _ => none
  | .bavgf _ _ _ _ _ => none
  | .bavgp _ _ _ _ _ => some .range
  | .sadacc _ _ => some .range
  | .accclr => none

/-! ### The window -/

/-- The events that reset the unit (R240). -/
def ResetEvent (e : BusEvent) : Prop :=
  e = .assertReset ∨ ∃ w : Word, e = hostWriteAt 0x04 w ∧ w.getLsbD 0 = true

/-- What a read of STATUS returns, as a number, from the bit places of R25. -/
def statusNumber (s : State) : Nat :=
  s.err.toNat + 2 * s.warnClamp.toNat + 4 * s.accOvf.toNat + 16 * codeNumber s.errCode

/-- What a read of an offset returns, as a number (R51). -/
def windowNumber (s : State) (off : Nat) : Nat :=
  if off = 0x00 then 0x01010001
  else if off = 0x04 then 0
  else if off = 0x08 then statusNumber s
  else if off = 0x0C then s.lastCmd.toNat
  else if off = 0x10 then s.acc.toNat
  else if off = 0x14 then s.errInfo.toNat
  else if off = 0x18 then s.clampCnt.toNat
  else if 0x20 ≤ off ∧ off ≤ 0x3C then (s.F (Fin.ofNat 8 ((off - 0x20) / 4))).val
  else 0

/-! ### Shares -/

/-- The field value of the share of a secret byte at x: `(s + a1·x) mod 257` (R183). -/
def shareValue (secret : Byte) (a1 : GF) (x : Nat) : Nat := (secret.toNat + a1.val * x) % 257

/-- The Lagrange coefficients of the share coordinates, copied from R142. -/
def shareBasis : Nat → Nat → Nat
  | 1, 2 => 2
  | 2, 1 => 256
  | 1, 3 => 130
  | 3, 1 => 128
  | 2, 3 => 3
  | 3, 2 => 255
  | _, _ => 0

/-- The raw reconstruction of one position from two share bytes (R143, R186). -/
def rawValue (x1 x2 : Nat) (y1 y2 : Byte) : Nat :=
  (y1.toNat * shareBasis x1 x2 + y2.toNat * shareBasis x2 x1) % 257

/-- `|a − b|` of two bytes as unsigned values (R195). -/
def byteDistance (p : Byte × Byte) : Nat := ((p.1.toNat : Int) - (p.2.toNat : Int)).natAbs

/-- The four bytes of channel c of the block of output pixel (ox, oy), p1 to p4 (R190). -/
def blockByte (r : RasterShape) (payload : List Byte) (ox oy c dx dy : Nat) : Nat :=
  (payload.getD ((2 * oy + dy) * r.stride + 3 * (2 * ox + dx) + c) 0).toNat

/-- The sum p1 + p2 + p3 + p4 of a block (R191). -/
def blockSum (r : RasterShape) (payload : List Byte) (ox oy c : Nat) : Nat :=
  blockByte r payload ox oy c 0 0 + blockByte r payload ox oy c 1 0 + blockByte r payload ox oy c 0 1 +
  blockByte r payload ox oy c 1 1

/-- The preconditions of a downscale (R189), and rows long enough for their pixels (R189, R193). -/
def RasterOk (r : RasterShape) (payload : List Byte) : Prop :=
  r.bitsPerPixel = 24 ∧ r.width % 2 = 0 ∧ r.height % 2 = 0 ∧ r.height * r.stride ≤ payload.length ∧
  3 * r.width ≤ r.stride ∧ 3 * (r.width / 2) ≤ r.outStride

/-- A payload laid out by R191: the byte of each channel at `oy·S' + 3·ox + c`, the codec's padding elsewhere (R193). -/
def LaidOut (r : RasterShape) (value : Nat → Nat → Nat → Nat) (padding : Nat → Byte) (out : List Byte) : Prop :=
  out.length = r.height / 2 * r.outStride ∧
  (∀ ox oy c, ox < r.width / 2 → oy < r.height / 2 → c < 3 →
    out[oy * r.outStride + 3 * ox + c]? = some (BitVec.ofNat 8 (value ox oy c))) ∧
  ∀ oy col, oy < r.height / 2 → 3 * (r.width / 2) ≤ col → col < r.outStride →
    out[oy * r.outStride + col]? = some (padding (oy * r.outStride + col))

end Sys2Proof.Safety
end

