-- ==== Sys2Proof/Certificates/Slice0/Obligations.lean ====
section
/-! DEFINITION. The statements for the provers. Each docstring names the rule of the spec it formalises. -/

open Sys2Proof Sys2Proof.Machine Sys2Proof.Safety

/-! ### Decoding and encoding -/

/-- Words written out in the spec (30_encoding.md R91, the examples of R102, R114, R130, R133, R140, R143, R162, R170,
R172) decode to the instructions they stand for. A sanity statement. -/
def Obligations.WordsOfTheSpecDecode : Prop :=
  decode 0x11940000#32 = .command (.fadd 3 1 2) ∧ decode 0x0780_0100#32 = .command (.ldi 7 256) ∧
  decode 0x1D90_0000#32 = .command (.finv 3 1) ∧ decode 0x2202_8000#32 = .command (.peval 4 0 1 2) ∧
  decode 0x3728_E800#32 = .command (.lint 6 2 4 3 5) ∧ decode 0x4602_9800#32 = .command (.bavgp 4 0 1 2 3) ∧
  decode 0x5014_0000#32 = .command (.sadacc 1 2) ∧ decode 0x0C00_0000#32 = .illegal .unassignedOpcode ∧
  decode 0x5094_0000#32 = .illegal .nonzeroUnusedBit

/-- R86: "A word w selects a command exactly when `(w & mask) = match`", for each of the sixteen rows; the selected word's
opcode is the row's, it decodes to the row's command with the fields the row uses, and every decoded command is of a
row. -/
def Obligations.WordSelectsCommandExactlyWhenMaskedBitsMatch : Prop :=
  (∀ row ∈ specTable, ∀ w : Word,
    (w &&& row.mask = row.matchWord ↔ ∃ i, decode w = .command i ∧ i.command = row.command) ∧
    (w &&& row.mask = row.matchWord →
      w.extractLsb' 26 6 = row.opcode ∧ decode w = .command (withFieldsUsed w row.command))) ∧
  ∀ (w : Word) (i : Instr), decode w = .command i → ∃ row ∈ specTable, row.command = i.command

/-- R87 and R88: a word with an opcode of no row, or with the opcode of a row and a 1 in another bit its mask covers,
raises ILLEGAL and has no other effect. -/
def Obligations.IllegalWordsRecordIllegalAndNothingElse : Prop :=
  (∀ w : Word, (∀ row ∈ specTable, w.extractLsb' 26 6 ≠ row.opcode) → RaisesIllegal w) ∧
  ∀ row ∈ specTable, ∀ w : Word, w.extractLsb' 26 6 = row.opcode → w &&& row.mask ≠ row.matchWord → RaisesIllegal w

/-- R89: "every 32-bit word is either exactly one command of rule R86 or illegal", and NOP is the word 0 alone. -/
def Obligations.EveryWordIsOneCommandOrIllegal : Prop :=
  (∀ w : Word, (∃ row ∈ specTable, w &&& row.mask = row.matchWord ∧
      ∀ row' ∈ specTable, w &&& row'.mask = row'.matchWord → row' = row) ∨
    ((∀ row ∈ specTable, w &&& row.mask ≠ row.matchWord) ∧ RaisesIllegal w)) ∧
  ∀ w : Word, decode w = .command .nop ↔ w = 0#32

/-- R93: the word of every instruction is the one of the formula; "Encode then decode, and decode then encode of a legal
word, are the identity". -/
def Obligations.EncodeAndDecodeAreInverse : Prop :=
  (∀ i : Instr, i.wellFormed = true → encode i = specWord i) ∧
  (∀ i : Instr, i.wellFormed = true → decode (encode i) = .command i) ∧
  ∀ (w : Word) (i : Instr), decode w = .command i → encode i = w

/-- Every instruction the decoder gives is well formed: an immediate of nine bits is at most 511 (R85). -/
def Obligations.DecodedInstructionsAreWellFormed : Prop :=
  ∀ (w : Word) (i : Instr), decode w = .command i → i.wellFormed = true

/-- R92: each pseudo-instruction's expansion, and that the expansion does what the pseudo-instruction means. -/
def Obligations.PseudoInstructionsDoWhatTheyMean : Prop :=
  ∀ (s : State) (d a : Reg),
    (Pseudo.clr d).expand = .ldi d 0 ∧ (Pseudo.fdbl d a).expand = .fadd d a a ∧
    (Pseudo.fsqr d a).expand = .fmul d a a ∧ (Pseudo.ldinv4 d).expand = .ldi d 193 ∧
    (∃ t, exec (Pseudo.clr d).expand s = .next t ∧ OnlyWritesField d 0 s t) ∧
    (∃ t, exec (Pseudo.fdbl d a).expand s = .next t ∧ OnlyWritesField d (2 * (s.F a).val % 257) s t) ∧
    (∃ t, exec (Pseudo.fsqr d a).expand s = .next t ∧ OnlyWritesField d ((s.F a).val ^ 2 % 257) s t) ∧
    (∃ t, exec (Pseudo.ldinv4 d).expand s = .next t ∧ OnlyWritesField d 193 s t)

/-- "An assembler rejects an LDI immediate above 256" (R91). On operand texts that read as a register and a number, LDI
assembles to exactly that register and number when the number is at most 256 and to nothing above; `F0` to `F7` read as
the eight registers; so written decimal and hexadecimal lines are taken and rejected; and whatever the line, an assembled
command is assemblable. The blanks and letter case of a line are the model's choice (log 15). -/
def Obligations.AssemblerRejectsImmediatesAbove256 : Prop :=
  (∀ (d v : List Char) (rd : Reg) (n : Nat), parseReg d = some rd → parseImmediate v = some n →
    assembleOperands .ldi [d, v] = if n ≤ 256 then some (.ldi rd n) else none) ∧
  (∀ r : Reg, parseReg ['F', Nat.digitChar r.val] = some r) ∧
  assembleLine "LDI F2, 256".toList = .command (.ldi 2 256) ∧
  assembleLine "LDI F2, 0x100".toList = .command (.ldi 2 256) ∧
  assembleLine "LDI F2, 257".toList = .rejected ∧ assembleLine "LDI F2, 0x101".toList = .rejected ∧
  ∀ (line : List Char) (i : Instr), assembleLine line = .command i → i.assemblable = true

/-! ### The step and the window -/

/-- A step runs the decoded instruction. R55 and R90: a write of CMD sets LASTCMD to the word and executes it; the step is
exec of the decoded instruction in the state with the event taken and LASTCMD written, and an illegal word is recorded as
ILLEGAL. That the host's accesses wait in `pending` is the model's (log 1). -/
def Obligations.StepRunsTheWordWrittenToCmd : Prop :=
  ∀ (s : State) (w : Word) (rest : List BusEvent), s.resetLine = false →
    (∀ i, decode w = .command i →
      step { s with pending := hostCommand w :: rest } = exec i { s with pending := rest, lastCmd := w }) ∧
    (∀ why, decode w = .illegal why →
      ∃ t, step { s with pending := hostCommand w :: rest } = .next t ∧
        OnlyRecordsError .illegal w { s with pending := rest, lastCmd := w } t)

/-- R65: the accesses take effect one at a time in the order the host issues them: as many steps as there are pending
events take exactly those events, in order, whatever is pending behind them. The queue is the model's (log 1). -/
def Obligations.StepsTakePendingEventsInIssueOrder : Prop :=
  ∀ (s : State) (es rest : List BusEvent),
    Host.Core.run Sys2Proof.core es.length { s with pending := es ++ rest } = takeEvents es { s with pending := rest }

/-- R60, R63, R64, and the read column of R51: a host read of any offset of the window returns the register there and
changes no register (R59). The queue and the record of the words read are the model's (logs 1 and 7). -/
def Obligations.BusReadReturnsTheRegisterAndChangesNothing : Prop :=
  ∀ (s : State) (off : Nat) (rest : List BusEvent), s.resetLine = false → off % 4 = 0 → off < 0x100 →
    ∃ w : Word, w.toNat = windowNumber s off ∧
      step { s with pending := hostReadAt off :: rest } = .next { s with pending := rest, reads := s.reads ++ [w] }

/-- R54 and R58: a write to ID, ERRINFO, a field register or a reserved offset is ignored; a read of a reserved offset
returns 0. -/
def Obligations.ReservedAndReadOnlyOffsetsIgnoreWrites : Prop :=
  ∀ (s : State) (off : Nat) (w : Word) (rest : List BusEvent), s.resetLine = false → off % 4 = 0 → off < 0x100 →
    ((off = 0x00 ∨ off = 0x14 ∨ off = 0x1C ∨ 0x20 ≤ off) →
      step { s with pending := hostWriteAt off w :: rest } = .next { s with pending := rest }) ∧
    ((off = 0x1C ∨ 0x40 ≤ off) →
      step { s with pending := hostReadAt off :: rest } = .next { s with pending := rest, reads := s.reads ++ [0#32] })

/-- R56: a write of STATUS clears exactly the written ones of bits 2:0, ERRCODE and ERRINFO with ERR, and nothing else. -/
def Obligations.StatusWriteClearsTheWrittenOnes : Prop :=
  ∀ (s : State) (w : Word) (rest : List BusEvent), s.resetLine = false →
    step { s with pending := hostWriteAt 0x08 w :: rest } = .next
      { s with
        pending := rest
        err := s.err && !w.getLsbD 0
        errCode := if w.getLsbD 0 then .none else s.errCode
        errInfo := if w.getLsbD 0 then 0#32 else s.errInfo
        warnClamp := s.warnClamp && !w.getLsbD 1
        accOvf := s.accOvf && !w.getLsbD 2 }

/-- R61 and R62: ACC and CLAMPCNT take the written word and no flag changes; a read (R60) returns it. -/
def Obligations.AccAndClampCntTakeTheWrittenWord : Prop :=
  ∀ (s : State) (w : Word) (rest : List BusEvent), s.resetLine = false →
    step { s with pending := hostWriteAt 0x10 w :: rest } = .next { s with pending := rest, acc := w } ∧
    step { s with pending := hostWriteAt 0x18 w :: rest } = .next { s with pending := rest, clampCnt := w } ∧
    busRead 0x10 { s with acc := w } = w ∧ busRead 0x18 { s with clampCnt := w } = w

/-- R52: an access of another width, or at an offset that is no multiple of 4, is refused: no step. -/
def Obligations.NarrowOrMisalignedAccessIsRefused : Prop :=
  ∀ (s : State) (a : Access) (rest : List BusEvent), s.pending = .access a :: rest → a.width ≠ .word ∨ a.off % 4 ≠ 0 →
    ∃ r, step s = .refused r

/-- An access while the reset input is asserted (R243), or by a second host (R227), is refused; a host's aligned word
access outside the window stops with a fault (log 5). -/
def Obligations.AccessDuringResetOrBySecondHostIsRefused : Prop :=
  ∀ (s : State) (a : Access) (rest : List BusEvent), s.pending = .access a :: rest →
    (s.resetLine = true ∨ a.master = .other → ∃ r, step s = .refused r) ∧
    (s.resetLine = false → a.master = .host → a.width = .word → a.off % 4 = 0 → 0x100 ≤ a.off →
      step s = .fault .outsideWindow)

/-- R241 with R240 and R57: either source of reset sets every register to 0, CTRL with bit 0 = 0 does nothing, and ID still
reads its constant. The model's choices in it: the pending events and the record of reads outlive a reset (logs 1 and 7);
the reset input is a level, and its assertion, not its release, resets the unit (log 4). The level is asserted after its
assertion, unchanged by a reset through CTRL, and released by its release, which changes nothing else. -/
def Obligations.EitherResetZeroesEveryRegister : Prop :=
  (∀ (s : State) (e : BusEvent) (rest : List BusEvent), s.pending = e :: rest → ResetEvent e →
    (e ≠ .assertReset → s.resetLine = false) →
    ∃ t, step s = .next t ∧ AllRegistersZero t ∧ t.pending = rest ∧ t.reads = s.reads ∧
      (busRead 0x00 t).toNat = 0x01010001 ∧ (e = .assertReset → t.resetLine = true) ∧
      (e ≠ .assertReset → t.resetLine = s.resetLine)) ∧
  (∀ (s : State) (rest : List BusEvent),
    step { s with pending := .releaseReset :: rest } = .next { s with pending := rest, resetLine := false }) ∧
  ∀ (s : State) (w : Word) (rest : List BusEvent), s.resetLine = false → w.getLsbD 0 = false →
    step { s with pending := hostWriteAt 0x04 w :: rest } = .next { s with pending := rest }

/-- The state after reset: every register 0 (R241). The released reset input, the empty queue and the empty record of reads
are the model's choice (logs 1, 4, 7). -/
def Obligations.ResetStateHasEveryRegisterZero : Prop :=
  AllRegistersZero State.reset ∧ State.reset.resetLine = false ∧ State.reset.pending = [] ∧ State.reset.reads = []

/-- R53: the byte at BASE + off + j is bits [8j+7 : 8j] of the register at off, whatever BASE is, and a command word is
carried in four byte lanes the same way. -/
def Obligations.WindowBytesAreLittleEndianLanes : Prop :=
  (∀ (s : State) (off j : Nat), off % 4 = 0 → off < 0x100 → j < 4 →
    ∃ b, windowByte (Config.base + off + j) s = some b ∧ b.toNat = windowNumber s off / 2 ^ (8 * j) % 2 ^ 8) ∧
  ∀ (b0 b1 b2 b3 : Byte) (rest : List Byte) (w : Word),
    w.toNat = b0.toNat + 2 ^ 8 * b1.toNat + 2 ^ 16 * b2.toNat + 2 ^ 24 * b3.toNat →
    decodeLanes (b0 :: b1 :: b2 :: b3 :: rest) = some (decode w, rest)

/-! ### The commands: encoding, result, frame, completion -/

/-- R101: NOP leaves every register unchanged; any other word of its opcode is illegal. -/
def Obligations.NopChangesNothing : Prop :=
  EncodedAs 0x00#6 0x00000000#32 0xFFFFFFFF#32 (fun _ => .nop) ∧
  ∀ s : State, ∃ t, exec .nop s = .next t ∧ NothingChanged s t

/-- R102: LDI loads an immediate up to 256; 257 to 511 raises RANGE and writes nothing of its own. -/
def Obligations.LdiLoadsFieldElementsAndRejectsOthers : Prop :=
  EncodedAs 0x01#6 0x04000000#32 0xFC7FFE00#32 (fun w => .ldi (regAt w 23) (w.extractLsb' 0 9).toNat) ∧
  (∀ (s : State) (rd : Reg) (imm9 : Nat), imm9 ≤ 256 →
    ∃ t, exec (.ldi rd imm9) s = .next t ∧ OnlyWritesField rd imm9 s t) ∧
  ∀ (s : State) (w : Word), w &&& 0xFC7FFE00#32 = 0x04000000#32 → 256 < (w.extractLsb' 0 9).toNat →
    ∃ t, executeWord w s = .next t ∧ OnlyRecordsError .range w s t

/-- R103: MOV copies a field register. -/
def Obligations.MovCopiesAFieldRegister : Prop :=
  EncodedAs 0x02#6 0x08000000#32 0xFC0FFFFF#32 (fun w => .mov (regAt w 23) (regAt w 20)) ∧
  ∀ (s : State) (rd rs1 : Reg), ∃ t, exec (.mov rd rs1) s = .next t ∧ OnlyWritesField rd (s.F rs1).val s t

/-- R111: FADD. -/
def Obligations.FaddAddsModulo257 : Prop :=
  EncodedAs 0x04#6 0x10000000#32 0xFC01FFFF#32 (fun w => .fadd (regAt w 23) (regAt w 20) (regAt w 17)) ∧
  ∀ (s : State) (rd rs1 rs2 : Reg), ∃ t, exec (.fadd rd rs1 rs2) s = .next t ∧
    OnlyWritesField rd (((s.F rs1).val + (s.F rs2).val) % 257) s t

/-- R112: FSUB. -/
def Obligations.FsubSubtractsModulo257 : Prop :=
  EncodedAs 0x05#6 0x14000000#32 0xFC01FFFF#32 (fun w => .fsub (regAt w 23) (regAt w 20) (regAt w 17)) ∧
  ∀ (s : State) (rd rs1 rs2 : Reg), ∃ t, exec (.fsub rd rs1 rs2) s = .next t ∧
    OnlyWritesField rd ((((s.F rs1).val : Int) - ((s.F rs2).val : Int) + 257) % 257).toNat s t

/-- R113: FMUL, the product exact. -/
def Obligations.FmulMultipliesModulo257 : Prop :=
  EncodedAs 0x06#6 0x18000000#32 0xFC01FFFF#32 (fun w => .fmul (regAt w 23) (regAt w 20) (regAt w 17)) ∧
  ∀ (s : State) (rd rs1 rs2 : Reg), ∃ t, exec (.fmul rd rs1 rs2) s = .next t ∧
    OnlyWritesField rd (((s.F rs1).val * (s.F rs2).val) % 257) s t

/-- R114 and R116: FINV writes the unique m in 1 to 256 with n · m mod 257 = 1; n = 0 raises DOMAIN. -/
def Obligations.FinvWritesTheUniqueInverseOrRaisesDomain : Prop :=
  EncodedAs 0x07#6 0x1C000000#32 0xFC0FFFFF#32 (fun w => .finv (regAt w 23) (regAt w 20)) ∧
  (∀ (s : State) (rd rs1 : Reg), s.F rs1 ≠ 0 →
    ∃ t m, exec (.finv rd rs1) s = .next t ∧ OnlyWritesField rd m s t ∧ 1 ≤ m ∧ m ≤ 256 ∧
      (s.F rs1).val * m % 257 = 1 ∧ ∀ m', 1 ≤ m' → m' ≤ 256 → (s.F rs1).val * m' % 257 = 1 → m' = m) ∧
  ∀ (s : State) (w : Word), w &&& 0xFC0FFFFF#32 = 0x1C000000#32 → s.F (regAt w 20) = 0 →
    ∃ t, executeWord w s = .next t ∧ OnlyRecordsError .domain w s t

/-- R130, and R132's "PEVAL does not check its operands": PEVAL evaluates a0 + a1·x. -/
def Obligations.PevalEvaluatesThePolynomial : Prop :=
  EncodedAs 0x08#6 0x20000000#32 0xFC003FFF#32
    (fun w => .peval (regAt w 23) (regAt w 20) (regAt w 17) (regAt w 14)) ∧
  ∀ (s : State) (rd rs1 rs2 rs3 : Reg), ∃ t, exec (.peval rd rs1 rs2 rs3) s = .next t ∧
    OnlyWritesField rd (((s.F rs2).val * (s.F rs3).val + (s.F rs1).val) % 257) s t

/-- R133: BTRUNC keeps the low 8 bits, silently. -/
def Obligations.BtruncKeepsTheLowEightBits : Prop :=
  EncodedAs 0x09#6 0x24000000#32 0xFC0FFFFF#32 (fun w => .btrunc (regAt w 23) (regAt w 20)) ∧
  ∀ (s : State) (rd rs1 : Reg), ∃ t, exec (.btrunc rd rs1) s = .next t ∧
    OnlyWritesField rd ((s.F rs1).val % 256) s t

/-- R140 and R141: LAGC writes the b with b · (xj − xi) ≡ xj, that is xj · inverse(xj − xi); equal coordinates raise
DUPX. -/
def Obligations.LagcWritesTheBasisCoefficientOrRaisesDupx : Prop :=
  EncodedAs 0x0C#6 0x30000000#32 0xFC01FFFF#32 (fun w => .lagc (regAt w 23) (regAt w 20) (regAt w 17)) ∧
  (∀ (s : State) (rd rs1 rs2 : Reg), s.F rs1 ≠ s.F rs2 →
    ∃ t d m, exec (.lagc rd rs1 rs2) s = .next t ∧
      d = ((((s.F rs2).val : Int) - ((s.F rs1).val : Int) + 257) % 257).toNat ∧
      1 ≤ m ∧ m ≤ 256 ∧ d * m % 257 = 1 ∧ OnlyWritesField rd ((s.F rs2).val * m % 257) s t) ∧
  ∀ (s : State) (w : Word), w &&& 0xFC01FFFF#32 = 0x30000000#32 → s.F (regAt w 20) = s.F (regAt w 17) →
    ∃ t, executeWord w s = .next t ∧ OnlyRecordsError .dupx w s t

/-- R143 and R144: LINT writes the raw interpolated value. -/
def Obligations.LintInterpolatesWithoutClamping : Prop :=
  EncodedAs 0x0D#6 0x34000000#32 0xFC0007FF#32
    (fun w => .lint (regAt w 23) (regAt w 20) (regAt w 17) (regAt w 14) (regAt w 11)) ∧
  ∀ (s : State) (rd rs1 rs2 rs3 rs4 : Reg), ∃ t, exec (.lint rd rs1 rs2 rs3 rs4) s = .next t ∧
    OnlyWritesField rd (((s.F rs1).val * (s.F rs2).val + (s.F rs3).val * (s.F rs4).val) % 257) s t

/-- R146, R147 and R222: BCLMP clamps a value over 255 to 255 with a warning, and copies every other value. -/
def Obligations.BclmpClampsWithAWarning : Prop :=
  EncodedAs 0x0E#6 0x38000000#32 0xFC0FFFFF#32 (fun w => .bclmp (regAt w 23) (regAt w 20)) ∧
  ∀ (s : State) (rd rs1 : Reg), ∃ t, exec (.bclmp rd rs1) s = .next t ∧
    if 255 < (s.F rs1).val then OnlyClamps rd s t else OnlyWritesField rd (s.F rs1).val s t

/-- R160 and R161: BAVGF multiplies the field sum by 193, the inverse of 4. -/
def Obligations.BavgfMultipliesTheFieldSumBy193 : Prop :=
  EncodedAs 0x10#6 0x40000000#32 0xFC0007FF#32
    (fun w => .bavgf (regAt w 23) (regAt w 20) (regAt w 17) (regAt w 14) (regAt w 11)) ∧
  (∀ (s : State) (rd rs1 rs2 rs3 rs4 : Reg), ∃ t, exec (.bavgf rd rs1 rs2 rs3 rs4) s = .next t ∧
    OnlyWritesField rd (((s.F rs1).val + (s.F rs2).val + (s.F rs3).val + (s.F rs4).val) % 257 * 193 % 257) s t) ∧
  4 * 193 % 257 = 1

/-- R162 and R163: BAVGP writes the truncated integer average of four bytes; an operand of 256 raises RANGE. -/
def Obligations.BavgpAveragesBytesOrRaisesRange : Prop :=
  EncodedAs 0x11#6 0x44000000#32 0xFC0007FF#32
    (fun w => .bavgp (regAt w 23) (regAt w 20) (regAt w 17) (regAt w 14) (regAt w 11)) ∧
  (∀ (s : State) (rd rs1 rs2 rs3 rs4 : Reg),
    (s.F rs1).val ≤ 255 → (s.F rs2).val ≤ 255 → (s.F rs3).val ≤ 255 → (s.F rs4).val ≤ 255 →
    ∃ t, exec (.bavgp rd rs1 rs2 rs3 rs4) s = .next t ∧
      OnlyWritesField rd (((s.F rs1).val + (s.F rs2).val + (s.F rs3).val + (s.F rs4).val) / 4) s t) ∧
  ∀ (s : State) (w : Word), w &&& 0xFC0007FF#32 = 0x44000000#32 →
    (255 < (s.F (regAt w 20)).val ∨ 255 < (s.F (regAt w 17)).val ∨ 255 < (s.F (regAt w 14)).val ∨
      255 < (s.F (regAt w 11)).val) →
    ∃ t, executeWord w s = .next t ∧ OnlyRecordsError .range w s t

/-- R170: SADACC adds the absolute difference of two bytes to ACC modulo 2^32 and sets ACC_OVF on a wrap; an operand of 256
raises RANGE. -/
def Obligations.SadaccAccumulatesOrRaisesRange : Prop :=
  EncodedAs 0x14#6 0x50000000#32 0xFF81FFFF#32 (fun w => .sadacc (regAt w 20) (regAt w 17)) ∧
  (∀ (s : State) (rs1 rs2 : Reg), (s.F rs1).val ≤ 255 → (s.F rs2).val ≤ 255 →
    ∃ t, exec (.sadacc rs1 rs2) s = .next t ∧
      OnlyAccumulates (((s.F rs1).val : Int) - ((s.F rs2).val : Int)).natAbs s t) ∧
  ∀ (s : State) (w : Word), w &&& 0xFF81FFFF#32 = 0x50000000#32 →
    (255 < (s.F (regAt w 20)).val ∨ 255 < (s.F (regAt w 17)).val) →
    ∃ t, executeWord w s = .next t ∧ OnlyRecordsError .range w s t

/-- R172: ACCCLR sets ACC to 0 and leaves every flag, ACC_OVF among them, as it was. -/
def Obligations.AccclrClearsTheAccumulatorOnly : Prop :=
  EncodedAs 0x15#6 0x54000000#32 0xFFFFFFFF#32 (fun _ => .accclr) ∧
  ∀ s : State, ∃ t, exec .accclr s = .next t ∧ t.acc = 0#32 ∧ SameFields s t ∧ SameStatus s t ∧
    t.lastCmd = s.lastCmd ∧ SameOutside s t

/-! ### Rules about the whole machine -/

/-- Every step keeps the error record consistent: ERRCODE and ERRINFO hold 0 while ERR = 0 (R29, R30), and while ERR = 1
ERRCODE holds the code of an error. -/
def Obligations.StepKeepsTheErrorRecordConsistent : Prop :=
  ∀ s t : State, ErrorRecordConsistent s → step s = .next t → ErrorRecordConsistent t

/-- The error record of the state after reset is consistent. -/
def Obligations.ResetErrorRecordIsConsistent : Prop := ErrorRecordConsistent State.reset

/-- R26, R29, R30: once ERR is set, it and the first error's record stay until the host writes STATUS with bit 0 = 1 or the
unit is reset; no command clears it. -/
def Obligations.OnlyStatusWriteOrResetClearsAnError : Prop :=
  ∀ (s t : State) (e : BusEvent) (rest : List BusEvent), s.pending = e :: rest → step s = .next t → s.err = true →
    ¬ResetEvent e → (∀ w : Word, e = hostWriteAt 0x08 w → w.getLsbD 0 = false) →
    t.err = true ∧ t.errCode = s.errCode ∧ t.errInfo = s.errInfo

/-- R27 and R31: every BCLMP of 256 written to CMD sets WARN_CLAMP and counts, saturating; WARN_CLAMP and CLAMPCNT change
only by that, by the host's writes of STATUS and CLAMPCNT, and by reset. -/
def Obligations.ClampWarningComesOnlyFromBclmp : Prop :=
  (∀ (s : State) (w : Word) (rd rs1 : Reg) (rest : List BusEvent), s.resetLine = false →
    decode w = .command (.bclmp rd rs1) → 255 < (s.F rs1).val →
    ∃ t, step { s with pending := hostCommand w :: rest } = .next t ∧ t.warnClamp = true ∧
      t.clampCnt.toNat = min (s.clampCnt.toNat + 1) (2 ^ 32 - 1)) ∧
  ∀ (s t : State) (e : BusEvent) (rest : List BusEvent), s.pending = e :: rest → step s = .next t →
    (t.warnClamp = s.warnClamp ∧ t.clampCnt = s.clampCnt) ∨
    (ResetEvent e ∧ t.warnClamp = false ∧ t.clampCnt = 0#32) ∨
    (∃ w : Word, e = hostWriteAt 0x08 w ∧ w.getLsbD 1 = true ∧ t.warnClamp = false ∧ t.clampCnt = s.clampCnt) ∨
    (∃ w : Word, e = hostWriteAt 0x18 w ∧ t.warnClamp = s.warnClamp ∧ t.clampCnt = w) ∨
    (∃ (w : Word) (rd rs1 : Reg), e = hostCommand w ∧ decode w = .command (.bclmp rd rs1) ∧ (s.F rs1).val = 256 ∧
      t.warnClamp = true ∧ t.clampCnt.toNat = min (s.clampCnt.toNat + 1) (2 ^ 32 - 1))

/-- R24 and R28 with R170 and R172: ACC and ACC_OVF change only by SADACC of two bytes, which adds their absolute
difference, by ACCCLR, by the host's writes of ACC and STATUS, and by reset; ACC_OVF is cleared only by STATUS or reset. -/
def Obligations.AccumulatorChangesOnlyByItsCommandsAndWrites : Prop :=
  ∀ (s t : State) (e : BusEvent) (rest : List BusEvent), s.pending = e :: rest → step s = .next t →
    (t.acc = s.acc ∧ t.accOvf = s.accOvf) ∨
    (ResetEvent e ∧ t.acc = 0#32 ∧ t.accOvf = false) ∨
    (∃ w : Word, e = hostWriteAt 0x08 w ∧ w.getLsbD 2 = true ∧ t.acc = s.acc ∧ t.accOvf = false) ∨
    (∃ w : Word, e = hostWriteAt 0x10 w ∧ t.acc = w ∧ t.accOvf = s.accOvf) ∨
    (e = hostCommand 0x54000000#32 ∧ t.acc = 0#32 ∧ t.accOvf = s.accOvf) ∨
    (∃ (w : Word) (rs1 rs2 : Reg) (d : Nat), e = hostCommand w ∧ decode w = .command (.sadacc rs1 rs2) ∧
      (s.F rs1).val ≤ 255 ∧ (s.F rs2).val ≤ 255 ∧ d = (((s.F rs1).val : Int) - ((s.F rs2).val : Int)).natAbs ∧
      t.acc.toNat = (s.acc.toNat + d) % 2 ^ 32 ∧ t.accOvf = (s.accOvf || decide (2 ^ 32 ≤ s.acc.toNat + d)))

/-- R22 and R100 (b): a field register changes only by reset or by one of the commands R22 lists, written to CMD, and that
command changes at most F[rd], the register its word names at bits 25:23 (R83); the host cannot write them over the
bus. -/
def Obligations.FieldRegistersChangeOnlyByOneCommandOrReset : Prop :=
  ∀ (s t : State) (e : BusEvent) (rest : List BusEvent), s.pending = e :: rest → step s = .next t →
    SameFields s t ∨ (ResetEvent e ∧ ∀ r, t.F r = 0) ∨
    (∃ (w : Word) (i : Instr), e = hostCommand w ∧ decode w = .command i ∧ i.command ∈ fieldWriters ∧
      ∀ r, r ≠ regAt w 23 → t.F r = s.F r)

/-- R32: LASTCMD holds the last word written to CMD, whether it executed, raised an error or was illegal; reset makes it 0,
nothing else writes it, and reading CMD returns it. -/
def Obligations.LastCmdHoldsTheLastWordWritten : Prop :=
  (∀ (s t : State) (e : BusEvent) (rest : List BusEvent), s.pending = e :: rest → step s = .next t →
    (∃ w, e = hostCommand w ∧ t.lastCmd = w) ∨ (ResetEvent e ∧ t.lastCmd = 0#32) ∨
    ((∀ w, e ≠ hostCommand w) ∧ ¬ResetEvent e ∧ t.lastCmd = s.lastCmd)) ∧
  ∀ s : State, busRead 0x0C s = s.lastCmd

/-- R37 and R100 (d): "No command reads a flag; every command's result depends on its operands alone". Two states with the
same field registers give the same field registers, the same ACC if they had the same, and, if neither had an error, the
same error. -/
def Obligations.CommandResultsDependOnOperandsAlone : Prop :=
  ∀ (i : Instr) (s₁ s₂ : State), SameFields s₁ s₂ →
    ∃ t₁ t₂, exec i s₁ = .next t₁ ∧ exec i s₂ = .next t₂ ∧ SameFields t₁ t₂ ∧ (s₁.acc = s₂.acc → t₁.acc = t₂.acc) ∧
      (s₁.err = false → s₂.err = false → t₁.err = t₂.err ∧ (t₁.err = true → t₁.errCode = t₂.errCode))

/-- R215: "ERR does not block, mask or alter any command": with an error recorded, a command has the same effect on every
register but the error record. -/
def Obligations.RecordedErrorDoesNotAlterCommands : Prop :=
  ∀ (i : Instr) (s : State) (c : ErrCode) (w : Word),
    ∃ t t', exec i s = .next t ∧ exec i { s with err := true, errCode := c, errInfo := w } = .next t' ∧
      SameFields t t' ∧ t'.acc = t.acc ∧ t'.warnClamp = t.warnClamp ∧ t'.accOvf = t.accOvf ∧ t'.clampCnt = t.clampCnt ∧
      t'.lastCmd = t.lastCmd ∧ SameOutside t t'

/-- R212: a command of the table raises at most the one error R212 gives it, recorded with its own word, and otherwise
leaves the error record alone; and each command that R212 gives an error can raise it. That the recorded word is the
encoding of the decoded command is read from R93 (log 3); an LDI of 512 or more, which no word decodes to, records the
word of its low nine bits (log 9). -/
def Obligations.EachCommandRaisesOnlyItsOwnError : Prop :=
  (∀ (i : Instr) (s : State), ∃ t, exec i s = .next t ∧
    ((t.err = s.err ∧ t.errCode = s.errCode ∧ t.errInfo = s.errInfo) ∨
      ∃ c, onlyError i = some c ∧ OnlyRecordsError c (encode i) s t)) ∧
  ∀ (i : Instr) (c : ErrCode), onlyError i = some c →
    ∃ i' s t, i'.command = i.command ∧ exec i' s = .next t ∧ s.err = false ∧ OnlyRecordsError c (encode i') s t

/-- R213 and R217: errors are precise and never coincide with a warning: a command that changes a field register, ACC,
CLAMPCNT, WARN_CLAMP or ACC_OVF records no error. -/
def Obligations.CommandWithAnEffectRecordsNoError : Prop :=
  ∀ (i : Instr) (s t : State), exec i s = .next t →
    (¬SameFields s t ∨ t.acc ≠ s.acc ∨ t.clampCnt ≠ s.clampCnt ∨ t.warnClamp ≠ s.warnClamp ∨ t.accOvf ≠ s.accOvf) →
    t.err = s.err ∧ t.errCode = s.errCode ∧ t.errInfo = s.errInfo

/-! ### Arithmetic -/

/-- R117: the field laws, of the functions the commands compute. -/
def Obligations.FieldLawsHold : Prop :=
  (∀ a b : GF, fieldAdd a b = fieldAdd b a ∧ fieldMul a b = fieldMul b a) ∧
  (∀ a b c : GF, fieldAdd (fieldAdd a b) c = fieldAdd a (fieldAdd b c) ∧
    fieldMul (fieldMul a b) c = fieldMul a (fieldMul b c) ∧
    fieldMul a (fieldAdd b c) = fieldAdd (fieldMul a b) (fieldMul a c)) ∧
  (∀ n : GF, n ≠ 0 → fieldMul (fieldInv n) n = 1) ∧
  (∀ a b : GF, fieldSub a b = fieldAdd a (fieldSub 0 b)) ∧ (∀ a : GF, fieldAdd a 0 = a ∧ fieldMul a 1 = a) ∧
  ∀ (s : State) (rd rs1 : Reg), s.F rs1 = 0 → s.err = false →
    ∃ t, exec (.finv rd rs1) s = .next t ∧ t.err = true ∧ t.errCode = .domain

/-- R142: the coefficients of every ordered pair of distinct share coordinates, as LAGC computes them, and the three
formulas for the secret. -/
def Obligations.LagrangeCoefficientsOfTheSharePairs : Prop :=
  (∀ x1 ∈ [1, 2, 3], ∀ x2 ∈ [1, 2, 3], x1 ≠ x2 → (lagrangeBasis (modP x1) (modP x2)).val = shareBasis x1 x2) ∧
  ∀ y1 y2 : GF,
    interpolate y1 (lagrangeBasis 1 2) y2 (lagrangeBasis 2 1) = fieldSub (fieldMul 2 y1) y2 ∧
    interpolate y1 (lagrangeBasis 1 3) y2 (lagrangeBasis 3 1) = fieldAdd (fieldMul 130 y1) (fieldMul 128 y2) ∧
    interpolate y1 (lagrangeBasis 2 3) y2 (lagrangeBasis 3 2) = fieldSub (fieldMul 3 y1) (fieldMul 2 y2)

/-- R145: from the true values of one degree-1 polynomial at two distinct points, the commands PEVAL, PEVAL, LAGC, LAGC,
LINT recover the constant term; if that is a byte, BCLMP then copies it with no warning. -/
def Obligations.InterpolationRecoversTheConstantTerm : Prop :=
  ∀ s : State, s.resetLine = false → s.F 2 ≠ s.F 3 →
    ∃ t u, takeEvents ([Instr.peval 4 0 1 2, .peval 5 0 1 3, .lagc 6 2 3, .lagc 7 3 2, .lint 4 4 6 5 7].map
        fun i => hostCommand (encode i)) s = .next t ∧ t.F 4 = s.F 0 ∧
      takeEvents [hostCommand (encode (.bclmp 5 4))] t = .next u ∧
      ((s.F 0).val ≤ 255 → u.F 5 = s.F 0 ∧ u.warnClamp = s.warnClamp ∧ u.clampCnt = s.clampCnt)

/-- R164: averaging the shares of four secrets at one x gives the share at x of the polynomial whose constant term is the
field average of the secrets and whose slope is that of the coefficients; on bytes the field average equals the plaintext
average exactly when the sum is divisible by 4. -/
def Obligations.AverageOfSharesIsAShareOfTheAverage : Prop :=
  (∀ s1 s2 s3 s4 c1 c2 c3 c4 x : GF,
    fieldAverage (horner s1 c1 x) (horner s2 c2 x) (horner s3 c3 x) (horner s4 c4 x) =
      horner (fieldAverage s1 s2 s3 s4) (fieldAverage c1 c2 c3 c4) x) ∧
  ∀ s1 s2 s3 s4 : GF, s1.val ≤ 255 → s2.val ≤ 255 → s3.val ≤ 255 → s4.val ≤ 255 →
    (fieldAverage s1 s2 s3 s4 = plainAverage s1 s2 s3 s4 ↔ (s1.val + s2.val + s3.val + s4.val) % 4 = 0)

/-- R165: the order of p1 to p4 does not change what BAVGF or BAVGP does to the destination. -/
def Obligations.AveragesIgnoreOperandOrder : Prop :=
  ∀ (s : State) (rd p1 p2 p3 p4 q1 q2 q3 q4 : Reg), [q1, q2, q3, q4].Perm [p1, p2, p3, p4] →
    exec (.bavgf rd q1 q2 q3 q4) s = exec (.bavgf rd p1 p2 p3 p4) s ∧
    ∃ t u, exec (.bavgp rd q1 q2 q3 q4) s = .next t ∧ exec (.bavgp rd p1 p2 p3 p4) s = .next u ∧ SameFields t u

/-- R185: for a fixed secret byte and x in 1 to 3, the share value takes every field element exactly once as a1 ranges over
the field, and the stored byte is 0 for two values of a1 and each other byte for one, whatever the secret. -/
def Obligations.OneShareRevealsNothing : Prop :=
  ∀ (secret x : GF), secret.val ≤ 255 → (x = 1 ∨ x = 2 ∨ x = 3) →
    Function.Bijective (fun a1 : GF => horner secret a1 x) ∧
    (Finset.univ.filter fun a1 : GF => truncateByte (horner secret a1 x) = 0).card = 2 ∧
    ∀ b : GF, 1 ≤ b.val → b.val ≤ 255 →
      (Finset.univ.filter fun a1 : GF => truncateByte (horner secret a1 x) = b).card = 1

/-! ### The reference host procedures -/

/-- R183: generate gives three shares of the secret's length, each byte `(s + a1·x) mod 257` truncated, for every
coefficient; no command of it raises an error; other k or n is fatal. That the machine is then untouched, with no access
made, is the model's choice (log 10). -/
def Obligations.GenerateStoresTheTruncatedShareValues : Prop :=
  (∀ (secret : List Byte) (rng : Nat → GF) (s : State), s.resetLine = false →
    ∃ u, generate secret 3 2 rng s = .done
        ([1, 2, 3].map fun x => (x, secret.mapIdx fun i b => BitVec.ofNat 8 (shareValue b (rng i) x % 256))) [] u ∧
      u.err = false) ∧
  ∀ (secret : List Byte) (n k : Nat) (rng : Nat → GF) (s : State), k ≠ 2 ∨ n ≠ 3 →
    ∃ e, generate secret n k rng s = .fatal e s

/-- R186 and R187: reconstruct of two shares of equal lengths with distinct coordinates in 1 to 3 gives at each position
the interpolated value clamped to 255, and warns of the clamped positions exactly when there are any; any other argument is
fatal. That the machine is then untouched, with no access made, is the model's choice (log 10), and so is the moment the
host reads CLAMPCNT (log 16). -/
def Obligations.ReconstructInterpolatesAndClamps : Prop :=
  (∀ (x1 x2 : Nat) (ys1 ys2 : List Byte) (s : State), s.resetLine = false → ys1.length = ys2.length → x1 ≠ x2 →
    1 ≤ x1 → x1 ≤ 3 → 1 ≤ x2 → x2 ≤ 3 →
    ∃ u n, n = (List.zipWith (rawValue x1 x2) ys1 ys2).count 256 ∧
      reconstruct [(x1, ys1), (x2, ys2)] s = .done
        (List.zipWith (fun y1 y2 => BitVec.ofNat 8 (min (rawValue x1 x2 y1 y2) 255)) ys1 ys2)
        (if n = 0 then [] else [.clamped (min n (2 ^ 32 - 1))]) u) ∧
  ∀ (shares : List (Nat × List Byte)) (s : State),
    (∀ x1 ys1 x2 ys2, shares = [(x1, ys1), (x2, ys2)] →
      ys1.length ≠ ys2.length ∨ x1 = x2 ∨ ¬(1 ≤ x1 ∧ x1 ≤ 3) ∨ ¬(1 ≤ x2 ∧ x2 ≤ 3)) →
    ∃ e, reconstruct shares s = .fatal e s

/-- R188: reconstructing from the generated shares at two distinct coordinates returns the secret, with no warning, when no
stored share byte lost its value; at a position where the share at xi is 256, the result is (s + LAGC(xi, xj)) mod 257,
clamped. -/
def Obligations.RoundTripIsExactUnlessAShareWasLost : Prop :=
  ∀ (secret : List Byte) (rng : Nat → GF) (s : State) (x1 x2 : Nat), s.resetLine = false →
    x1 ≠ x2 → 1 ≤ x1 → x1 ≤ 3 → 1 ≤ x2 → x2 ≤ 3 →
    ∃ (ys : Nat → List Byte) (u v : State) (ws : List HostWarning) (out : List Byte),
      generate secret 3 2 rng s = .done [(1, ys 1), (2, ys 2), (3, ys 3)] [] u ∧
      reconstruct [(x1, ys x1), (x2, ys x2)] u = .done out ws v ∧
      out = secret.mapIdx (fun i b =>
        if shareValue b (rng i) x1 = 256 then BitVec.ofNat 8 (min ((b.toNat + shareBasis x1 x2) % 257) 255)
        else if shareValue b (rng i) x2 = 256 then BitVec.ofNat 8 (min ((b.toNat + shareBasis x2 x1) % 257) 255)
        else b) ∧
      ((∀ i b, secret[i]? = some b → shareValue b (rng i) x1 ≠ 256 ∧ shareValue b (rng i) x2 ≠ 256) →
        out = secret ∧ ws = [])

/-- R191 and R192: the two downscales lay out, at `oy·S' + 3·ox + c`, the field average truncated to a byte and the integer
average. R189: a raster whose depth is not 24 bits, whose width or height is odd, or whose payload is too small, is fatal,
with no output. The model's choices in it: the length of the output, H/2 rows of S' bytes, the padding bytes taken from an
argument and the check of the strides (log 13); that a fatal raster leaves the machine untouched (log 10). -/
def Obligations.DownscalesAverageEveryBlock : Prop :=
  (∀ (r : RasterShape) (payload : List Byte) (padding : Nat → Byte) (s : State), s.resetLine = false →
    RasterOk r payload →
    (∃ out u, downscaleField r payload padding s = .done out [] u ∧
      LaidOut r (fun ox oy c => blockSum r payload ox oy c * 193 % 257 % 256) padding out) ∧
    ∃ out u, downscalePlain r payload padding s = .done out [] u ∧
      LaidOut r (fun ox oy c => blockSum r payload ox oy c / 4) padding out) ∧
  ∀ (r : RasterShape) (payload : List Byte) (padding : Nat → Byte) (s : State),
    (r.bitsPerPixel ≠ 24 ∨ r.width % 2 = 1 ∨ r.height % 2 = 1 ∨ payload.length < r.height * r.stride) →
    (∃ e, downscaleField r payload padding s = .fatal e s) ∧ ∃ e, downscalePlain r payload padding s = .fatal e s

/-- R195, R196 and R197: sae returns the exact sum of the absolute differences over the common prefix, for any length, with
ACC_OVF 0 at the end and a warning when the lengths differ; different dimensions are fatal. That the machine is then
untouched is the model's choice (log 10). -/
def Obligations.SaeReturnsTheExactSum : Prop :=
  (∀ (as bs : List Byte) (w h : Nat) (s : State), s.resetLine = false →
    ∃ u, sae as w h bs w h s = .done ((as.zip bs).map byteDistance).sum
        (if as.length = bs.length then [] else [.lengthMismatch]) u ∧ u.accOvf = false) ∧
  ∀ (as bs : List Byte) (wa ha wb hb : Nat) (s : State), wa ≠ wb ∨ ha ≠ hb →
    ∃ e, sae as wa ha bs wb hb s = .fatal e s

/-! ### Waiting, and the reset through CTRL -/

/-- With no event pending the unit "waits for the host's first access" (R242) and "all state is kept between accesses"
(R229): the step leaves the state as it is. That such a step is taken at all is the model's choice (log 1). -/
def Obligations.StepWithNothingPendingChangesNothing : Prop :=
  ∀ s : State, step { s with pending := [] } = .next { s with pending := [] }

/-- R57 and R241, without the queue: a write of CTRL with bit 0 = 1 sets every register to 0, LASTCMD among them, and does
not affect ID; with bit 0 = 0 nothing happens. -/
def Obligations.CtrlWriteResetsTheUnitOrDoesNothing : Prop :=
  ∀ (s : State) (w : Word),
    (w.getLsbD 0 = true → ∃ t, busWrite 0x04 w s = .next t ∧ AllRegistersZero t ∧
      (busRead 0x00 t).toNat = 0x01010001) ∧
    (w.getLsbD 0 = false → busWrite 0x04 w s = .next s)
end

