-- ==== Sys2Proof/Laws/Field.lean ====
section
/-! SUPPORT. What each arithmetic function computes: its value as a number, and its image in ZMod 257, where Mathlib's
ring and field lemmas apply. -/

namespace Sys2Proof.Machine

/-! ### Values -/

@[simp] theorem modP_val (n : Nat) : (modP n).val = n % 257 := rfl

@[simp] theorem fieldAdd_val (a b : GF) : (fieldAdd a b).val = (a.val + b.val) % 257 := rfl

@[simp] theorem fieldSub_val (a b : GF) : (fieldSub a b).val = (a.val + 257 - b.val) % 257 := rfl

@[simp] theorem fieldMul_val (a b : GF) : (fieldMul a b).val = (a.val * b.val) % 257 := rfl

@[simp] theorem horner_val (a0 a1 x : GF) : (horner a0 a1 x).val = (a1.val * x.val + a0.val) % 257 := by
  simp [horner]

@[simp] theorem interpolate_val (y1 b1 y2 b2 : GF) :
    (interpolate y1 b1 y2 b2).val = (y1.val * b1.val + y2.val * b2.val) % 257 := by
  simp [interpolate, Nat.add_mod]

@[simp] theorem fieldAverage_val (p1 p2 p3 p4 : GF) :
    (fieldAverage p1 p2 p3 p4).val = ((p1.val + p2.val + p3.val + p4.val) * 193) % 257 := by
  simp [fieldAverage, Config.INV4, Nat.mul_mod, Nat.add_mod]

@[simp] theorem isByte_iff (v : GF) : isByte v = true ↔ v.val ≤ 255 := by simp [isByte]

theorem isByte_eq_false_iff (v : GF) : isByte v = false ↔ v.val = 256 := by
  have := v.isLt
  simp [isByte]; omega

/-- On bytes the defensive clamp and the final narrowing change nothing (R163). -/
theorem plainAverage_val {p1 p2 p3 p4 : GF} (h1 : p1.val ≤ 255) (h2 : p2.val ≤ 255) (h3 : p3.val ≤ 255)
    (h4 : p4.val ≤ 255) :
    (plainAverage p1 p2 p3 p4).val = (p1.val + p2.val + p3.val + p4.val) / 4 := by
  simp only [plainAverage, modP_val]
  omega

@[simp] theorem truncateByte_val (v : GF) : (truncateByte v).val = v.val % 256 := by
  simp only [truncateByte, modP_val]
  omega

theorem absDiff_le {a b : GF} (ha : a.val ≤ 255) (hb : b.val ≤ 255) : absDiff a b ≤ 255 := by
  unfold absDiff; omega

theorem absDiff_comm (a b : GF) : absDiff a b = absDiff b a := by
  unfold absDiff; omega

/-! ### The inverse -/

set_option maxRecDepth 20000 in
/-- The result of the inverse circuit, checked at each of its 256 operands (R114). -/
theorem fieldInv_spec : ∀ n : GF, n ≠ 0 → n.val * (fieldInv n).val % 257 = 1 := by decide

theorem fieldInv_ne_zero {n : GF} (h : n ≠ 0) : fieldInv n ≠ 0 := by
  intro e
  have := fieldInv_spec n h
  rw [e] at this
  simp at this

/-! ### The image in ZMod 257 -/

theorem prime_P : Nat.Prime 257 := by norm_num

/-- A field element as an element of Mathlib's field. -/
def asZMod (a : GF) : ZMod 257 := (a.val : ZMod 257)

theorem asZMod_injective {a b : GF} (h : asZMod a = asZMod b) : a = b := by
  unfold asZMod at h
  rw [ZMod.natCast_eq_natCast_iff] at h
  have ha := a.isLt
  have hb := b.isLt
  unfold Nat.ModEq at h
  rw [Nat.mod_eq_of_lt ha, Nat.mod_eq_of_lt hb] at h
  exact Fin.ext h

@[simp] theorem asZMod_modP (n : Nat) : asZMod (modP n) = (n : ZMod 257) := by
  simp [asZMod]

@[simp] theorem asZMod_fieldAdd (a b : GF) : asZMod (fieldAdd a b) = asZMod a + asZMod b := by
  simp [fieldAdd, asZMod]

@[simp] theorem asZMod_fieldMul (a b : GF) : asZMod (fieldMul a b) = asZMod a * asZMod b := by
  simp [fieldMul, asZMod]

@[simp] theorem asZMod_fieldSub (a b : GF) : asZMod (fieldSub a b) = asZMod a - asZMod b := by
  have hb : b.val ≤ a.val + Config.P := by have := b.isLt; simp only [Config.P]; omega
  have hP : ((Config.P : Nat) : ZMod 257) = 0 := by decide
  rw [fieldSub, asZMod_modP, Nat.cast_sub hb, Nat.cast_add, hP, add_zero]
  rfl

theorem asZMod_fieldInv_mul {n : GF} (h : n ≠ 0) : asZMod n * asZMod (fieldInv n) = 1 := by
  have e := fieldInv_spec n h
  have : ((n.val * (fieldInv n).val : Nat) : ZMod 257) = ((1 : Nat) : ZMod 257) := by
    rw [ZMod.natCast_eq_natCast_iff]; exact e
  simpa [asZMod] using this

theorem asZMod_horner (a0 a1 x : GF) : asZMod (horner a0 a1 x) = asZMod a1 * asZMod x + asZMod a0 := by simp [horner]

theorem asZMod_interpolate (y1 b1 y2 b2 : GF) :
    asZMod (interpolate y1 b1 y2 b2) = asZMod y1 * asZMod b1 + asZMod y2 * asZMod b2 := by simp [interpolate]

theorem asZMod_fieldAverage (p1 p2 p3 p4 : GF) :
    asZMod (fieldAverage p1 p2 p3 p4) = (asZMod p1 + asZMod p2 + asZMod p3 + asZMod p4) * 193 := by
  simp [fieldAverage, Config.INV4]

end Sys2Proof.Machine
end

