-- ==== Sys2Proof/Laws/State.lean ====
section
/-! SUPPORT. What each named update of the state does to each register: one lemma per field per update, so that no proof
unfolds a record update. -/

namespace Sys2Proof.Machine

/-! ### Reading and writing a field register -/

@[simp] theorem State.F_setF_self (s : State) (r : Reg) (v : GF) : (s.setF r v).F r = v := by
  simp [State.setF, State.F]

theorem State.F_setF_ne (s : State) {r q : Reg} (v : GF) (h : q ≠ r) : (s.setF r v).F q = s.F q := by
  have hv : r.val ≠ q.val := fun e => h (Fin.ext e.symm)
  simp [State.setF, State.F, hv]

theorem State.F_setF (s : State) (r q : Reg) (v : GF) : (s.setF r v).F q = if q = r then v else s.F q := by
  by_cases h : q = r
  · subst h; simp
  · simp [State.F_setF_ne s v h, h]

@[simp] theorem State.F_resetUnit (s : State) (q : Reg) : s.resetUnit.F q = 0 := by
  simp [State.resetUnit, State.F]

@[simp] theorem State.F_reset (q : Reg) : State.reset.F q = 0 := by
  simp [State.reset, State.F]

/-- Two states are equal when every register, and the outside world's side, is. -/
theorem State.ext_fields {s t : State} (hF : ∀ r, t.F r = s.F r) (h1 : t.acc = s.acc) (h2 : t.err = s.err)
    (h3 : t.warnClamp = s.warnClamp) (h4 : t.accOvf = s.accOvf) (h5 : t.errCode = s.errCode)
    (h6 : t.errInfo = s.errInfo) (h7 : t.clampCnt = s.clampCnt) (h8 : t.lastCmd = s.lastCmd)
    (h9 : t.resetLine = s.resetLine) (h10 : t.pending = s.pending) (h11 : t.reads = s.reads) : t = s := by
  have hf : t.fregs = s.fregs := by
    apply Vector.ext
    intro i hi
    exact hF ⟨i, hi⟩
  cases s; cases t
  simp_all

/-! ### setF -/

@[simp] theorem State.acc_setF (s : State) (r : Reg) (v : GF) : (s.setF r v).acc = s.acc := rfl
@[simp] theorem State.err_setF (s : State) (r : Reg) (v : GF) : (s.setF r v).err = s.err := rfl
@[simp] theorem State.warnClamp_setF (s : State) (r : Reg) (v : GF) : (s.setF r v).warnClamp = s.warnClamp := rfl
@[simp] theorem State.accOvf_setF (s : State) (r : Reg) (v : GF) : (s.setF r v).accOvf = s.accOvf := rfl
@[simp] theorem State.errCode_setF (s : State) (r : Reg) (v : GF) : (s.setF r v).errCode = s.errCode := rfl
@[simp] theorem State.errInfo_setF (s : State) (r : Reg) (v : GF) : (s.setF r v).errInfo = s.errInfo := rfl
@[simp] theorem State.clampCnt_setF (s : State) (r : Reg) (v : GF) : (s.setF r v).clampCnt = s.clampCnt := rfl
@[simp] theorem State.lastCmd_setF (s : State) (r : Reg) (v : GF) : (s.setF r v).lastCmd = s.lastCmd := rfl
@[simp] theorem State.resetLine_setF (s : State) (r : Reg) (v : GF) : (s.setF r v).resetLine = s.resetLine := rfl
@[simp] theorem State.pending_setF (s : State) (r : Reg) (v : GF) : (s.setF r v).pending = s.pending := rfl
@[simp] theorem State.reads_setF (s : State) (r : Reg) (v : GF) : (s.setF r v).reads = s.reads := rfl

/-! ### setAcc -/

@[simp] theorem State.F_setAcc (s : State) (w : Word) (q : Reg) : (s.setAcc w).F q = s.F q := rfl
@[simp] theorem State.acc_setAcc (s : State) (w : Word) : (s.setAcc w).acc = w := rfl
@[simp] theorem State.err_setAcc (s : State) (w : Word) : (s.setAcc w).err = s.err := rfl
@[simp] theorem State.warnClamp_setAcc (s : State) (w : Word) : (s.setAcc w).warnClamp = s.warnClamp := rfl
@[simp] theorem State.accOvf_setAcc (s : State) (w : Word) : (s.setAcc w).accOvf = s.accOvf := rfl
@[simp] theorem State.errCode_setAcc (s : State) (w : Word) : (s.setAcc w).errCode = s.errCode := rfl
@[simp] theorem State.errInfo_setAcc (s : State) (w : Word) : (s.setAcc w).errInfo = s.errInfo := rfl
@[simp] theorem State.clampCnt_setAcc (s : State) (w : Word) : (s.setAcc w).clampCnt = s.clampCnt := rfl
@[simp] theorem State.lastCmd_setAcc (s : State) (w : Word) : (s.setAcc w).lastCmd = s.lastCmd := rfl
@[simp] theorem State.resetLine_setAcc (s : State) (w : Word) : (s.setAcc w).resetLine = s.resetLine := rfl
@[simp] theorem State.pending_setAcc (s : State) (w : Word) : (s.setAcc w).pending = s.pending := rfl
@[simp] theorem State.reads_setAcc (s : State) (w : Word) : (s.setAcc w).reads = s.reads := rfl

/-! ### setClampCnt -/

@[simp] theorem State.F_setClampCnt (s : State) (w : Word) (q : Reg) : (s.setClampCnt w).F q = s.F q := rfl
@[simp] theorem State.acc_setClampCnt (s : State) (w : Word) : (s.setClampCnt w).acc = s.acc := rfl
@[simp] theorem State.err_setClampCnt (s : State) (w : Word) : (s.setClampCnt w).err = s.err := rfl
@[simp] theorem State.warnClamp_setClampCnt (s : State) (w : Word) : (s.setClampCnt w).warnClamp = s.warnClamp := rfl
@[simp] theorem State.accOvf_setClampCnt (s : State) (w : Word) : (s.setClampCnt w).accOvf = s.accOvf := rfl
@[simp] theorem State.errCode_setClampCnt (s : State) (w : Word) : (s.setClampCnt w).errCode = s.errCode := rfl
@[simp] theorem State.errInfo_setClampCnt (s : State) (w : Word) : (s.setClampCnt w).errInfo = s.errInfo := rfl
@[simp] theorem State.clampCnt_setClampCnt (s : State) (w : Word) : (s.setClampCnt w).clampCnt = w := rfl
@[simp] theorem State.lastCmd_setClampCnt (s : State) (w : Word) : (s.setClampCnt w).lastCmd = s.lastCmd := rfl
@[simp] theorem State.resetLine_setClampCnt (s : State) (w : Word) : (s.setClampCnt w).resetLine = s.resetLine := rfl
@[simp] theorem State.pending_setClampCnt (s : State) (w : Word) : (s.setClampCnt w).pending = s.pending := rfl
@[simp] theorem State.reads_setClampCnt (s : State) (w : Word) : (s.setClampCnt w).reads = s.reads := rfl

/-! ### setLastCmd -/

@[simp] theorem State.F_setLastCmd (s : State) (w : Word) (q : Reg) : (s.setLastCmd w).F q = s.F q := rfl
@[simp] theorem State.acc_setLastCmd (s : State) (w : Word) : (s.setLastCmd w).acc = s.acc := rfl
@[simp] theorem State.err_setLastCmd (s : State) (w : Word) : (s.setLastCmd w).err = s.err := rfl
@[simp] theorem State.warnClamp_setLastCmd (s : State) (w : Word) : (s.setLastCmd w).warnClamp = s.warnClamp := rfl
@[simp] theorem State.accOvf_setLastCmd (s : State) (w : Word) : (s.setLastCmd w).accOvf = s.accOvf := rfl
@[simp] theorem State.errCode_setLastCmd (s : State) (w : Word) : (s.setLastCmd w).errCode = s.errCode := rfl
@[simp] theorem State.errInfo_setLastCmd (s : State) (w : Word) : (s.setLastCmd w).errInfo = s.errInfo := rfl
@[simp] theorem State.clampCnt_setLastCmd (s : State) (w : Word) : (s.setLastCmd w).clampCnt = s.clampCnt := rfl
@[simp] theorem State.lastCmd_setLastCmd (s : State) (w : Word) : (s.setLastCmd w).lastCmd = w := rfl
@[simp] theorem State.resetLine_setLastCmd (s : State) (w : Word) : (s.setLastCmd w).resetLine = s.resetLine := rfl
@[simp] theorem State.pending_setLastCmd (s : State) (w : Word) : (s.setLastCmd w).pending = s.pending := rfl
@[simp] theorem State.reads_setLastCmd (s : State) (w : Word) : (s.setLastCmd w).reads = s.reads := rfl

/-! ### clearWarnClamp -/

@[simp] theorem State.F_clearWarnClamp (s : State) (q : Reg) : s.clearWarnClamp.F q = s.F q := rfl
@[simp] theorem State.acc_clearWarnClamp (s : State) : s.clearWarnClamp.acc = s.acc := rfl
@[simp] theorem State.err_clearWarnClamp (s : State) : s.clearWarnClamp.err = s.err := rfl
@[simp] theorem State.warnClamp_clearWarnClamp (s : State) : s.clearWarnClamp.warnClamp = false := rfl
@[simp] theorem State.accOvf_clearWarnClamp (s : State) : s.clearWarnClamp.accOvf = s.accOvf := rfl
@[simp] theorem State.errCode_clearWarnClamp (s : State) : s.clearWarnClamp.errCode = s.errCode := rfl
@[simp] theorem State.errInfo_clearWarnClamp (s : State) : s.clearWarnClamp.errInfo = s.errInfo := rfl
@[simp] theorem State.clampCnt_clearWarnClamp (s : State) : s.clearWarnClamp.clampCnt = s.clampCnt := rfl
@[simp] theorem State.lastCmd_clearWarnClamp (s : State) : s.clearWarnClamp.lastCmd = s.lastCmd := rfl
@[simp] theorem State.resetLine_clearWarnClamp (s : State) : s.clearWarnClamp.resetLine = s.resetLine := rfl
@[simp] theorem State.pending_clearWarnClamp (s : State) : s.clearWarnClamp.pending = s.pending := rfl
@[simp] theorem State.reads_clearWarnClamp (s : State) : s.clearWarnClamp.reads = s.reads := rfl

/-! ### clearAccOvf -/

@[simp] theorem State.F_clearAccOvf (s : State) (q : Reg) : s.clearAccOvf.F q = s.F q := rfl
@[simp] theorem State.acc_clearAccOvf (s : State) : s.clearAccOvf.acc = s.acc := rfl
@[simp] theorem State.err_clearAccOvf (s : State) : s.clearAccOvf.err = s.err := rfl
@[simp] theorem State.warnClamp_clearAccOvf (s : State) : s.clearAccOvf.warnClamp = s.warnClamp := rfl
@[simp] theorem State.accOvf_clearAccOvf (s : State) : s.clearAccOvf.accOvf = false := rfl
@[simp] theorem State.errCode_clearAccOvf (s : State) : s.clearAccOvf.errCode = s.errCode := rfl
@[simp] theorem State.errInfo_clearAccOvf (s : State) : s.clearAccOvf.errInfo = s.errInfo := rfl
@[simp] theorem State.clampCnt_clearAccOvf (s : State) : s.clearAccOvf.clampCnt = s.clampCnt := rfl
@[simp] theorem State.lastCmd_clearAccOvf (s : State) : s.clearAccOvf.lastCmd = s.lastCmd := rfl
@[simp] theorem State.resetLine_clearAccOvf (s : State) : s.clearAccOvf.resetLine = s.resetLine := rfl
@[simp] theorem State.pending_clearAccOvf (s : State) : s.clearAccOvf.pending = s.pending := rfl
@[simp] theorem State.reads_clearAccOvf (s : State) : s.clearAccOvf.reads = s.reads := rfl

/-! ### recordError -/

@[simp] theorem State.F_recordError (s : State) (c : ErrCode) (w : Word) (q : Reg) : (s.recordError c w).F q = s.F q := rfl
@[simp] theorem State.acc_recordError (s : State) (c : ErrCode) (w : Word) : (s.recordError c w).acc = s.acc := rfl
@[simp] theorem State.err_recordError (s : State) (c : ErrCode) (w : Word) : (s.recordError c w).err = true := rfl
@[simp] theorem State.warnClamp_recordError (s : State) (c : ErrCode) (w : Word) : (s.recordError c w).warnClamp = s.warnClamp := rfl
@[simp] theorem State.accOvf_recordError (s : State) (c : ErrCode) (w : Word) : (s.recordError c w).accOvf = s.accOvf := rfl
@[simp] theorem State.errCode_recordError (s : State) (c : ErrCode) (w : Word) : (s.recordError c w).errCode = if s.err then s.errCode else c := rfl
@[simp] theorem State.errInfo_recordError (s : State) (c : ErrCode) (w : Word) : (s.recordError c w).errInfo = if s.err then s.errInfo else w := rfl
@[simp] theorem State.clampCnt_recordError (s : State) (c : ErrCode) (w : Word) : (s.recordError c w).clampCnt = s.clampCnt := rfl
@[simp] theorem State.lastCmd_recordError (s : State) (c : ErrCode) (w : Word) : (s.recordError c w).lastCmd = s.lastCmd := rfl
@[simp] theorem State.resetLine_recordError (s : State) (c : ErrCode) (w : Word) : (s.recordError c w).resetLine = s.resetLine := rfl
@[simp] theorem State.pending_recordError (s : State) (c : ErrCode) (w : Word) : (s.recordError c w).pending = s.pending := rfl
@[simp] theorem State.reads_recordError (s : State) (c : ErrCode) (w : Word) : (s.recordError c w).reads = s.reads := rfl

/-! ### clearError -/

@[simp] theorem State.F_clearError (s : State) (q : Reg) : s.clearError.F q = s.F q := rfl
@[simp] theorem State.acc_clearError (s : State) : s.clearError.acc = s.acc := rfl
@[simp] theorem State.err_clearError (s : State) : s.clearError.err = false := rfl
@[simp] theorem State.warnClamp_clearError (s : State) : s.clearError.warnClamp = s.warnClamp := rfl
@[simp] theorem State.accOvf_clearError (s : State) : s.clearError.accOvf = s.accOvf := rfl
@[simp] theorem State.errCode_clearError (s : State) : s.clearError.errCode = .none := rfl
@[simp] theorem State.errInfo_clearError (s : State) : s.clearError.errInfo = 0#32 := rfl
@[simp] theorem State.clampCnt_clearError (s : State) : s.clearError.clampCnt = s.clampCnt := rfl
@[simp] theorem State.lastCmd_clearError (s : State) : s.clearError.lastCmd = s.lastCmd := rfl
@[simp] theorem State.resetLine_clearError (s : State) : s.clearError.resetLine = s.resetLine := rfl
@[simp] theorem State.pending_clearError (s : State) : s.clearError.pending = s.pending := rfl
@[simp] theorem State.reads_clearError (s : State) : s.clearError.reads = s.reads := rfl

/-! ### resetUnit -/

@[simp] theorem State.acc_resetUnit (s : State) : s.resetUnit.acc = 0#32 := rfl
@[simp] theorem State.err_resetUnit (s : State) : s.resetUnit.err = false := rfl
@[simp] theorem State.warnClamp_resetUnit (s : State) : s.resetUnit.warnClamp = false := rfl
@[simp] theorem State.accOvf_resetUnit (s : State) : s.resetUnit.accOvf = false := rfl
@[simp] theorem State.errCode_resetUnit (s : State) : s.resetUnit.errCode = .none := rfl
@[simp] theorem State.errInfo_resetUnit (s : State) : s.resetUnit.errInfo = 0#32 := rfl
@[simp] theorem State.clampCnt_resetUnit (s : State) : s.resetUnit.clampCnt = 0#32 := rfl
@[simp] theorem State.lastCmd_resetUnit (s : State) : s.resetUnit.lastCmd = 0#32 := rfl
@[simp] theorem State.resetLine_resetUnit (s : State) : s.resetUnit.resetLine = s.resetLine := rfl
@[simp] theorem State.pending_resetUnit (s : State) : s.resetUnit.pending = s.pending := rfl
@[simp] theorem State.reads_resetUnit (s : State) : s.resetUnit.reads = s.reads := rfl

/-! ### warnClampEvent -/

@[simp] theorem State.F_warnClampEvent (s : State) (q : Reg) : s.warnClampEvent.F q = s.F q := rfl
@[simp] theorem State.acc_warnClampEvent (s : State) : s.warnClampEvent.acc = s.acc := rfl
@[simp] theorem State.err_warnClampEvent (s : State) : s.warnClampEvent.err = s.err := rfl
@[simp] theorem State.warnClamp_warnClampEvent (s : State) : s.warnClampEvent.warnClamp = true := rfl
@[simp] theorem State.accOvf_warnClampEvent (s : State) : s.warnClampEvent.accOvf = s.accOvf := rfl
@[simp] theorem State.errCode_warnClampEvent (s : State) : s.warnClampEvent.errCode = s.errCode := rfl
@[simp] theorem State.errInfo_warnClampEvent (s : State) : s.warnClampEvent.errInfo = s.errInfo := rfl
@[simp] theorem State.clampCnt_warnClampEvent (s : State) : s.warnClampEvent.clampCnt = saturatingSucc s.clampCnt := rfl
@[simp] theorem State.lastCmd_warnClampEvent (s : State) : s.warnClampEvent.lastCmd = s.lastCmd := rfl
@[simp] theorem State.resetLine_warnClampEvent (s : State) : s.warnClampEvent.resetLine = s.resetLine := rfl
@[simp] theorem State.pending_warnClampEvent (s : State) : s.warnClampEvent.pending = s.pending := rfl
@[simp] theorem State.reads_warnClampEvent (s : State) : s.warnClampEvent.reads = s.reads := rfl

/-! ### accumulate -/

@[simp] theorem State.F_accumulate (s : State) (d : Nat) (q : Reg) : (s.accumulate d).F q = s.F q := rfl
@[simp] theorem State.acc_accumulate (s : State) (d : Nat) : (s.accumulate d).acc = BitVec.ofNat 32 (s.acc.toNat + d) := rfl
@[simp] theorem State.err_accumulate (s : State) (d : Nat) : (s.accumulate d).err = s.err := rfl
@[simp] theorem State.warnClamp_accumulate (s : State) (d : Nat) : (s.accumulate d).warnClamp = s.warnClamp := rfl
@[simp] theorem State.accOvf_accumulate (s : State) (d : Nat) : (s.accumulate d).accOvf = (s.accOvf || accWraps s.acc d) := rfl
@[simp] theorem State.errCode_accumulate (s : State) (d : Nat) : (s.accumulate d).errCode = s.errCode := rfl
@[simp] theorem State.errInfo_accumulate (s : State) (d : Nat) : (s.accumulate d).errInfo = s.errInfo := rfl
@[simp] theorem State.clampCnt_accumulate (s : State) (d : Nat) : (s.accumulate d).clampCnt = s.clampCnt := rfl
@[simp] theorem State.lastCmd_accumulate (s : State) (d : Nat) : (s.accumulate d).lastCmd = s.lastCmd := rfl
@[simp] theorem State.resetLine_accumulate (s : State) (d : Nat) : (s.accumulate d).resetLine = s.resetLine := rfl
@[simp] theorem State.pending_accumulate (s : State) (d : Nat) : (s.accumulate d).pending = s.pending := rfl
@[simp] theorem State.reads_accumulate (s : State) (d : Nat) : (s.accumulate d).reads = s.reads := rfl

/-! ### setResetLine -/

@[simp] theorem State.F_setResetLine (s : State) (b : Bool) (q : Reg) : (s.setResetLine b).F q = s.F q := rfl
@[simp] theorem State.acc_setResetLine (s : State) (b : Bool) : (s.setResetLine b).acc = s.acc := rfl
@[simp] theorem State.err_setResetLine (s : State) (b : Bool) : (s.setResetLine b).err = s.err := rfl
@[simp] theorem State.warnClamp_setResetLine (s : State) (b : Bool) : (s.setResetLine b).warnClamp = s.warnClamp := rfl
@[simp] theorem State.accOvf_setResetLine (s : State) (b : Bool) : (s.setResetLine b).accOvf = s.accOvf := rfl
@[simp] theorem State.errCode_setResetLine (s : State) (b : Bool) : (s.setResetLine b).errCode = s.errCode := rfl
@[simp] theorem State.errInfo_setResetLine (s : State) (b : Bool) : (s.setResetLine b).errInfo = s.errInfo := rfl
@[simp] theorem State.clampCnt_setResetLine (s : State) (b : Bool) : (s.setResetLine b).clampCnt = s.clampCnt := rfl
@[simp] theorem State.lastCmd_setResetLine (s : State) (b : Bool) : (s.setResetLine b).lastCmd = s.lastCmd := rfl
@[simp] theorem State.resetLine_setResetLine (s : State) (b : Bool) : (s.setResetLine b).resetLine = b := rfl
@[simp] theorem State.pending_setResetLine (s : State) (b : Bool) : (s.setResetLine b).pending = s.pending := rfl
@[simp] theorem State.reads_setResetLine (s : State) (b : Bool) : (s.setResetLine b).reads = s.reads := rfl

/-! ### setPending -/

@[simp] theorem State.F_setPending (s : State) (p : List BusEvent) (q : Reg) : (s.setPending p).F q = s.F q := rfl
@[simp] theorem State.acc_setPending (s : State) (p : List BusEvent) : (s.setPending p).acc = s.acc := rfl
@[simp] theorem State.err_setPending (s : State) (p : List BusEvent) : (s.setPending p).err = s.err := rfl
@[simp] theorem State.warnClamp_setPending (s : State) (p : List BusEvent) : (s.setPending p).warnClamp = s.warnClamp := rfl
@[simp] theorem State.accOvf_setPending (s : State) (p : List BusEvent) : (s.setPending p).accOvf = s.accOvf := rfl
@[simp] theorem State.errCode_setPending (s : State) (p : List BusEvent) : (s.setPending p).errCode = s.errCode := rfl
@[simp] theorem State.errInfo_setPending (s : State) (p : List BusEvent) : (s.setPending p).errInfo = s.errInfo := rfl
@[simp] theorem State.clampCnt_setPending (s : State) (p : List BusEvent) : (s.setPending p).clampCnt = s.clampCnt := rfl
@[simp] theorem State.lastCmd_setPending (s : State) (p : List BusEvent) : (s.setPending p).lastCmd = s.lastCmd := rfl
@[simp] theorem State.resetLine_setPending (s : State) (p : List BusEvent) : (s.setPending p).resetLine = s.resetLine := rfl
@[simp] theorem State.pending_setPending (s : State) (p : List BusEvent) : (s.setPending p).pending = p := rfl
@[simp] theorem State.reads_setPending (s : State) (p : List BusEvent) : (s.setPending p).reads = s.reads := rfl

/-! ### logRead -/

@[simp] theorem State.F_logRead (s : State) (w : Word) (q : Reg) : (s.logRead w).F q = s.F q := rfl
@[simp] theorem State.acc_logRead (s : State) (w : Word) : (s.logRead w).acc = s.acc := rfl
@[simp] theorem State.err_logRead (s : State) (w : Word) : (s.logRead w).err = s.err := rfl
@[simp] theorem State.warnClamp_logRead (s : State) (w : Word) : (s.logRead w).warnClamp = s.warnClamp := rfl
@[simp] theorem State.accOvf_logRead (s : State) (w : Word) : (s.logRead w).accOvf = s.accOvf := rfl
@[simp] theorem State.errCode_logRead (s : State) (w : Word) : (s.logRead w).errCode = s.errCode := rfl
@[simp] theorem State.errInfo_logRead (s : State) (w : Word) : (s.logRead w).errInfo = s.errInfo := rfl
@[simp] theorem State.clampCnt_logRead (s : State) (w : Word) : (s.logRead w).clampCnt = s.clampCnt := rfl
@[simp] theorem State.lastCmd_logRead (s : State) (w : Word) : (s.logRead w).lastCmd = s.lastCmd := rfl
@[simp] theorem State.resetLine_logRead (s : State) (w : Word) : (s.logRead w).resetLine = s.resetLine := rfl
@[simp] theorem State.pending_logRead (s : State) (w : Word) : (s.logRead w).pending = s.pending := rfl
@[simp] theorem State.reads_logRead (s : State) (w : Word) : (s.logRead w).reads = s.reads ++ [w] := rfl

end Sys2Proof.Machine
end

