-- ==== Sys2Proof/Laws/Ops.lean ====
section
/-! SUPPORT. What each shared operation and each command can do, said once: the provers cite these lemmas instead of
unfolding the meanings. -/

namespace Sys2Proof.Machine

/-! ### Recording an error, the clamp warning, the accumulator -/

/-- While ERR = 0 the code and the word are recorded (R214). -/
theorem State.recordError_first {s : State} (h : s.err = false) (c : ErrCode) (w : Word) :
    (s.recordError c w).errCode = c ∧ (s.recordError c w).errInfo = w := by
  simp [h]

/-- While ERR = 1 nothing new is recorded (R214). -/
theorem State.recordError_later {s : State} (h : s.err = true) (c : ErrCode) (w : Word) : s.recordError c w = s := by
  apply State.ext_fields <;> simp [h]

/-- The saturating count as a number (R31). -/
theorem saturatingSucc_toNat (n : Word) : (saturatingSucc n).toNat = min (n.toNat + 1) (2 ^ 32 - 1) := by
  have h := n.isLt
  unfold saturatingSucc
  split
  · rw [BitVec.toNat_add]; simp; omega
  · omega

/-- ACC after one more term, as a number (R170). -/
theorem State.accumulate_toNat (s : State) (d : Nat) : (s.accumulate d).acc.toNat = (s.acc.toNat + d) % 2 ^ 32 := by
  simp

@[simp] theorem accWraps_iff (acc : Word) (d : Nat) : accWraps acc d = true ↔ 2 ^ 32 ≤ acc.toNat + d := by
  simp [accWraps]

theorem State.raiseErr_eq (s : State) (c : ErrCode) (w : Word) : s.raiseErr c w = .next (s.recordError c w) := rfl

/-! ### Operands -/

theorem immediateElement_of_le {n : Nat} (h : n ≤ 256) : immediateElement n = some ⟨n, by omega⟩ := by
  simp [immediateElement, show n < 257 by omega]

theorem immediateElement_of_gt {n : Nat} (h : 256 < n) : immediateElement n = none := by
  simp [immediateElement]; omega

/-! ### Commands -/

/-- The field register a command writes, F[rd], if it writes one (R22, R100). -/
def destination : Instr → Option Reg
  | .nop => none
  | .ldi rd _ => some rd
  | .mov rd _ => some rd
  | .fadd rd _ _ => some rd
  | .fsub rd _ _ => some rd
  | .fmul rd _ _ => some rd
  | .finv rd _ => some rd
  | .peval rd _ _ _ => some rd
  | .btrunc rd _ => some rd
  | .lagc rd _ _ => some rd
  | .lint rd _ _ _ _ => some rd
  | .bclmp rd _ => some rd
  | .bavgf rd _ _ _ _ => some rd
  | .bavgp rd _ _ _ _ => some rd
  | .sadacc _ _ => none
  | .accclr => none

/-- Everything a command can do, if it answers a next state: nothing, one write of its destination, that write with a
clamp warning, one more term of ACC, clearing ACC, or recording one error. -/
theorem exec_cases {i : Instr} {s t : State} (h : exec i s = .next t) :
    (i = .nop ∧ t = s) ∨ (∃ rd v, destination i = some rd ∧ t = s.setF rd v) ∨
    (∃ rd rs1, i = .bclmp rd rs1 ∧ (s.F rs1).val = 256 ∧ t = (s.setF rd 255).warnClampEvent) ∨
    (∃ rs1 rs2, i = .sadacc rs1 rs2 ∧ (s.F rs1).val ≤ 255 ∧ (s.F rs2).val ≤ 255 ∧
      t = s.accumulate (absDiff (s.F rs1) (s.F rs2))) ∨
    (i = .accclr ∧ t = s.setAcc 0#32) ∨
    (∃ c, c ≠ ErrCode.none ∧ t = s.recordError c (encode i)) := by
  cases i with
  | nop => exact .inl ⟨rfl, by simpa [exec, execNop] using h.symm⟩
  | ldi rd n =>
    simp only [exec, execLdi] at h
    split at h
    · exact .inr (.inr (.inr (.inr (.inr ⟨.range, by decide, by simpa [State.raiseErr] using h.symm⟩))))
    · exact .inr (.inl ⟨rd, _, rfl, by simpa using h.symm⟩)
  | mov rd rs1 => exact .inr (.inl ⟨rd, _, rfl, by simpa [exec, execMov] using h.symm⟩)
  | fadd rd rs1 rs2 => exact .inr (.inl ⟨rd, _, rfl, by simpa [exec, execFadd] using h.symm⟩)
  | fsub rd rs1 rs2 => exact .inr (.inl ⟨rd, _, rfl, by simpa [exec, execFsub] using h.symm⟩)
  | fmul rd rs1 rs2 => exact .inr (.inl ⟨rd, _, rfl, by simpa [exec, execFmul] using h.symm⟩)
  | finv rd rs1 =>
    simp only [exec, execFinv] at h
    split at h
    · exact .inr (.inr (.inr (.inr (.inr ⟨.domain, by decide, by simpa [State.raiseErr] using h.symm⟩))))
    · exact .inr (.inl ⟨rd, _, rfl, by simpa using h.symm⟩)
  | peval rd rs1 rs2 rs3 => exact .inr (.inl ⟨rd, _, rfl, by simpa [exec, execPeval] using h.symm⟩)
  | btrunc rd rs1 => exact .inr (.inl ⟨rd, _, rfl, by simpa [exec, execBtrunc] using h.symm⟩)
  | lagc rd rs1 rs2 =>
    simp only [exec, execLagc] at h
    split at h
    · exact .inr (.inr (.inr (.inr (.inr ⟨.dupx, by decide, by simpa [State.raiseErr] using h.symm⟩))))
    · exact .inr (.inl ⟨rd, _, rfl, by simpa using h.symm⟩)
  | lint rd rs1 rs2 rs3 rs4 => exact .inr (.inl ⟨rd, _, rfl, by simpa [exec, execLint] using h.symm⟩)
  | bclmp rd rs1 =>
    simp only [exec, execBclmp] at h
    split at h
    · exact .inr (.inl ⟨rd, _, rfl, by simpa using h.symm⟩)
    · rename_i hb
      exact .inr (.inr (.inl ⟨rd, rs1, rfl, (isByte_eq_false_iff _).1 (Bool.eq_false_iff.2 hb), by simpa using h.symm⟩))
  | bavgf rd rs1 rs2 rs3 rs4 => exact .inr (.inl ⟨rd, _, rfl, by simpa [exec, execBavgf] using h.symm⟩)
  | bavgp rd rs1 rs2 rs3 rs4 =>
    simp only [exec, execBavgp] at h
    split at h
    · exact .inr (.inl ⟨rd, _, rfl, by simpa using h.symm⟩)
    · exact .inr (.inr (.inr (.inr (.inr ⟨.range, by decide, by simpa [State.raiseErr] using h.symm⟩))))
  | sadacc rs1 rs2 =>
    simp only [exec, execSadacc] at h
    split at h
    · rename_i hb
      simp only [Bool.and_eq_true, isByte_iff] at hb
      exact .inr (.inr (.inr (.inl ⟨rs1, rs2, rfl, hb.1, hb.2, by simpa using h.symm⟩)))
    · exact .inr (.inr (.inr (.inr (.inr ⟨.range, by decide, by simpa [State.raiseErr] using h.symm⟩))))
  | accclr => exact .inr (.inr (.inr (.inr (.inl ⟨rfl, by simpa [exec, execAccclr] using h.symm⟩))))

end Sys2Proof.Machine
end

