-- ==== Sys2Proof/Laws/Bus.lean ====
section
/-! SUPPORT. What an access, an event and a step can do, said once. -/

namespace Sys2Proof.Machine

/-! ### The host's accesses -/

/-- A 32-bit access of the host at an aligned offset is not refused while the reset input is released (R52, R243). -/
theorem accessRefusal_host {s : State} {off : Nat} (hr : s.resetLine = false) (ha : off % 4 = 0) (k : AccessKind) :
    accessRefusal { master := .host, width := .word, off := off, kind := k } s = none := by
  simp [accessRefusal, hr, ha]

/-- The host's read of a register (R51, R59). -/
theorem takeEvent_hostReadAt {s : State} {off : Nat} (hr : s.resetLine = false) (ha : off % 4 = 0) (hw : off < 0x100) :
    takeEvent (hostReadAt off) s = .next (s.logRead (busRead off s)) := by
  simp [takeEvent, hostReadAt, access, accessRefusal_host hr ha, show ¬0x100 ≤ off by omega]

/-- The host's write of a register (R51). -/
theorem takeEvent_hostWriteAt {s : State} {off : Nat} (w : Word) (hr : s.resetLine = false) (ha : off % 4 = 0)
    (hw : off < 0x100) : takeEvent (hostWriteAt off w) s = busWrite off w s := by
  simp [takeEvent, hostWriteAt, access, accessRefusal_host hr ha, show ¬0x100 ≤ off by omega]

/-- The host's write of a command word (R55). -/
theorem takeEvent_hostCommand {s : State} (w : Word) (hr : s.resetLine = false) :
    takeEvent (hostCommand w) s = commandWrite w s :=
  takeEvent_hostWriteAt w hr (by decide) (by decide)

theorem commandWrite_command {s : State} {w : Word} {i : Instr} (h : decode w = .command i) :
    commandWrite w s = exec i (s.setLastCmd w) := by
  simp [commandWrite, executeWord, h]

theorem commandWrite_illegal {s : State} {w : Word} {why : IllegalReason} (h : decode w = .illegal why) :
    commandWrite w s = .next ((s.setLastCmd w).recordError .illegal w) := by
  simp [commandWrite, executeWord, h, State.raiseErr]

/-! ### Inversions -/

/-- Everything a write can do, if it answers a next state: nothing, a reset of the unit, a STATUS write, a command, ACC, or
CLAMPCNT (R51). -/
theorem busWrite_cases {off : Nat} {w : Word} {s t : State} (h : busWrite off w s = .next t) :
    t = s ∨ (off = 0x04 ∧ w.getLsbD 0 = true ∧ t = s.resetUnit) ∨ (off = 0x08 ∧ t = statusWrite w s) ∨
    (off = 0x0C ∧ commandWrite w s = .next t) ∨ (off = 0x10 ∧ t = s.setAcc w) ∨ (off = 0x18 ∧ t = s.setClampCnt w) := by
  unfold busWrite at h
  split at h
  · simp only [Host.Outcome.next.injEq, ctrlWrite] at h
    split at h
    · rename_i hw; exact .inr (.inl ⟨rfl, hw, h.symm⟩)
    · exact .inl h.symm
  · exact .inr (.inr (.inl ⟨rfl, by simpa using h.symm⟩))
  · exact .inr (.inr (.inr (.inl ⟨rfl, h⟩)))
  · exact .inr (.inr (.inr (.inr (.inl ⟨rfl, by simpa using h.symm⟩))))
  · exact .inr (.inr (.inr (.inr (.inr ⟨rfl, by simpa using h.symm⟩))))
  · exact .inl (by simpa using h.symm)

/-- Everything a command write can do, if it answers a next state (R55, R90). -/
theorem commandWrite_cases {w : Word} {s t : State} (h : commandWrite w s = .next t) :
    (∃ why, decode w = .illegal why ∧ t = (s.setLastCmd w).recordError .illegal w) ∨
    (∃ i, decode w = .command i ∧ exec i (s.setLastCmd w) = .next t) := by
  unfold commandWrite executeWord at h
  split at h
  · rename_i why hd; exact .inl ⟨why, hd, by simpa [State.raiseErr] using h.symm⟩
  · rename_i i hd; exact .inr ⟨i, hd, h⟩

/-- Everything an event can do, if it answers a next state. An access then was the host's, 32 bits wide, aligned, in the
window, and came while the reset input was released. -/
theorem takeEvent_cases {e : BusEvent} {s t : State} (h : takeEvent e s = .next t) :
    (e = .assertReset ∧ t = s.resetUnit.setResetLine true) ∨ (e = .releaseReset ∧ t = s.setResetLine false) ∨
    (∃ off, e = hostReadAt off ∧ s.resetLine = false ∧ off % 4 = 0 ∧ off < 0x100 ∧ t = s.logRead (busRead off s)) ∨
    (∃ off w, e = hostWriteAt off w ∧ s.resetLine = false ∧ off % 4 = 0 ∧ off < 0x100 ∧ busWrite off w s = .next t) := by
  cases e with
  | assertReset => exact .inl ⟨rfl, by simpa [takeEvent] using h.symm⟩
  | releaseReset => exact .inr (.inl ⟨rfl, by simpa [takeEvent] using h.symm⟩)
  | access a =>
    obtain ⟨m, wd, off, k⟩ := a
    simp only [takeEvent, access, accessRefusal] at h
    by_cases hm : m = .host <;> by_cases hr : s.resetLine = false <;> by_cases hwd : wd = .word <;>
      by_cases ha : off % 4 = 0 <;> simp [hm, hr, hwd, ha] at h
    by_cases hw : 0x100 ≤ off
    · simp [hw] at h
    · subst hm; subst hwd
      cases k with
      | read => exact .inr (.inr (.inl ⟨off, rfl, hr, ha, by omega, by simpa [hw] using h.symm⟩))
      | write w => exact .inr (.inr (.inr ⟨off, w, rfl, hr, ha, by omega, by simpa [hw] using h⟩))

/-- Everything a step can do, if it answers a next state. -/
theorem step_cases {s t : State} (h : step s = .next t) :
    (s.pending = [] ∧ t = s) ∨ (∃ e rest, s.pending = e :: rest ∧ takeEvent e (s.setPending rest) = .next t) := by
  unfold step at h
  split at h
  · rename_i hp; exact .inl ⟨hp, by simpa using h.symm⟩
  · rename_i e rest hp; exact .inr ⟨e, rest, hp, h⟩

theorem step_pending {s : State} {e : BusEvent} {rest : List BusEvent} (h : s.pending = e :: rest) :
    step s = takeEvent e (s.setPending rest) := by
  simp [step, h]

/-! ### Sequences of events -/

@[simp] theorem takeEvents_nil (s : State) : takeEvents [] s = .next s := rfl

theorem takeEvents_cons {e : BusEvent} {es : List BusEvent} {s t : State} (h : takeEvent e s = .next t) :
    takeEvents (e :: es) s = takeEvents es t := by
  simp [takeEvents, h]

/-- The next event the host's withFetchWord puts in front is its write of CMD (log 2). -/
theorem withFetchWord_pending (s : State) (nbits w : Nat) :
    (s.withFetchWord nbits w).pending = hostCommand (BitVec.ofNat 32 (w % 2 ^ nbits)) :: s.pending := rfl

/-! ### Registers of the window -/

/-- The bus read of a field register (R63). -/
theorem busRead_fieldOffset (r : Reg) (s : State) : busRead (fieldOffset r) s = BitVec.ofNat 32 (s.F r).val := by
  revert r; intro r
  fin_cases r <;> rfl

/-! ### Writes of STATUS -/

/-- What a write of STATUS leaves in each register (R56). -/
theorem statusWrite_fields (w : Word) (s : State) :
    (statusWrite w s).err = (s.err && !w.getLsbD 0) ∧
    (statusWrite w s).errCode = (if w.getLsbD 0 then .none else s.errCode) ∧
    (statusWrite w s).errInfo = (if w.getLsbD 0 then 0#32 else s.errInfo) ∧
    (statusWrite w s).warnClamp = (s.warnClamp && !w.getLsbD 1) ∧
    (statusWrite w s).accOvf = (s.accOvf && !w.getLsbD 2) ∧ (∀ r, (statusWrite w s).F r = s.F r) ∧
    (statusWrite w s).acc = s.acc ∧ (statusWrite w s).clampCnt = s.clampCnt ∧
    (statusWrite w s).lastCmd = s.lastCmd := by
  unfold statusWrite
  cases w.getLsbD 0 <;> cases w.getLsbD 1 <;> cases w.getLsbD 2 <;> simp

/-! ### The queue plays no part in what an event does -/

/-- A function of the next state, applied to an answer. -/
def mapNext (f : State → State) : Result → Result
  | .next t => .next (f t)
  | .fault r => .fault r
  | .refused r => .refused r

theorem exec_setPending (i : Instr) (s : State) (p : List BusEvent) :
    exec i (s.setPending p) = mapNext (·.setPending p) (exec i s) := by
  cases i <;> simp only [exec, execNop, execLdi, execMov, execFadd, execFsub, execFmul, execFinv, execPeval, execBtrunc,
    execLagc, execLint, execBclmp, execBavgf, execBavgp, execSadacc, execAccclr, State.F_setPending] <;>
    first
    | rfl
    | (split <;> rename_i h <;>
        first
        | rfl
        | (simp only [h, if_true, if_false, Bool.false_eq_true]; rfl))

theorem busWrite_setPending (off : Nat) (w : Word) (s : State) (p : List BusEvent) :
    busWrite off w (s.setPending p) = mapNext (·.setPending p) (busWrite off w s) := by
  unfold busWrite
  split
  · unfold ctrlWrite; split <;> rfl
  · unfold statusWrite; simp only; split <;> split <;> split <;> rfl
  · unfold commandWrite executeWord
    split
    · rfl
    · exact exec_setPending _ (s.setLastCmd w) p
  all_goals rfl

theorem busRead_setPending (off : Nat) (s : State) (p : List BusEvent) : busRead off (s.setPending p) = busRead off s := by
  unfold busRead; split <;> rfl

theorem takeEvent_setPending (e : BusEvent) (s : State) (p : List BusEvent) :
    takeEvent e (s.setPending p) = mapNext (·.setPending p) (takeEvent e s) := by
  cases e with
  | assertReset => rfl
  | releaseReset => rfl
  | access a =>
    have h : accessRefusal a (s.setPending p) = accessRefusal a s := rfl
    simp only [takeEvent, access, h]
    split
    · rfl
    · split
      · rfl
      · split
        · rw [busRead_setPending]; rfl
        · exact busWrite_setPending _ _ _ _

/-- No event touches the queue. -/
theorem takeEvent_pending {e : BusEvent} {s t : State} (h : takeEvent e s = .next t) : t.pending = s.pending := by
  have h2 := takeEvent_setPending e s s.pending
  have hs : s.setPending s.pending = s := rfl
  rw [hs, h] at h2
  simp only [mapNext, Host.Outcome.next.injEq] at h2
  rw [h2]; rfl

end Sys2Proof.Machine
end

