-- ==== Sys2Proof/Laws/Encoding.lean ====
section
/-! SUPPORT. The pieces of an encoded word: each field of the encoder's word reads back, and each piece is 0 under the
masks that do not cover it. -/

namespace Sys2Proof

theorem extract_or (a b : Word) (lo n : Nat) :
    (a ||| b).extractLsb' lo n = a.extractLsb' lo n ||| b.extractLsb' lo n := by
  ext i hi; simp

/-! ### The fields of a piece, checked at every value of the piece -/

theorem extract_regBits_same :
    (∀ r : Reg, (regBits r 23).extractLsb' 23 3 = BitVec.ofFin r) ∧ (∀ r : Reg, (regBits r 20).extractLsb' 20 3 = BitVec.ofFin r) ∧
    (∀ r : Reg, (regBits r 17).extractLsb' 17 3 = BitVec.ofFin r) ∧ (∀ r : Reg, (regBits r 14).extractLsb' 14 3 = BitVec.ofFin r) ∧
    (∀ r : Reg, (regBits r 11).extractLsb' 11 3 = BitVec.ofFin r) := by decide

/-- The places of the five register fields (R81). -/
def regPlaces : List Nat := [23, 20, 17, 14, 11]

theorem extract_regBits_other :
    ∀ lo ∈ regPlaces, ∀ at' ∈ regPlaces, lo ≠ at' → ∀ r : Reg, (regBits r lo).extractLsb' at' 3 = 0#3 := by decide

theorem opcodeField_regBits : ∀ lo ∈ regPlaces, ∀ r : Reg, opcodeField (regBits r lo) = 0#6 := by decide

theorem extract_opcodeBits : ∀ lo ∈ regPlaces, ∀ c : Command, (opcodeBits c.opcode).extractLsb' lo 3 = 0#3 := by
  intro lo h c
  cases c <;> revert lo <;> decide

theorem opcodeField_opcodeBits (c : Command) : opcodeField (opcodeBits c.opcode) = c.opcode := by
  cases c <;> decide

theorem commandOf_opcode (c : Command) : commandOf c.opcode = some c := by cases c <;> rfl

/-! ### The fields of an encoded word -/

section Fields
variable (c : Command) (rd rs1 rs2 rs3 rs4 : Reg)

@[simp] theorem opcodeField_encodeR : opcodeField (encodeR c rd rs1 rs2 rs3 rs4) = c.opcode := by
  have h := opcodeField_regBits
  have e := opcodeField_opcodeBits c
  simp only [opcodeField] at *
  simp only [encodeR, extract_or, e, h 23 (by decide), h 20 (by decide), h 17 (by decide), h 14 (by decide), h 11 (by decide), BitVec.or_zero]

@[simp] theorem rdField_encodeR : rdField (encodeR c rd rs1 rs2 rs3 rs4) = rd := by
  have h := fun lo hlo hne => extract_regBits_other lo hlo 23 (by decide) hne
  simp only [rdField, regField, encodeR, extract_or, extract_opcodeBits 23 (by decide), extract_regBits_same.1,
    h 20 (by decide) (by decide), h 17 (by decide) (by decide), h 14 (by decide) (by decide), h 11 (by decide) (by decide), BitVec.or_zero, BitVec.zero_or]

@[simp] theorem rs1Field_encodeR : rs1Field (encodeR c rd rs1 rs2 rs3 rs4) = rs1 := by
  have h := fun lo hlo hne => extract_regBits_other lo hlo 20 (by decide) hne
  simp only [rs1Field, regField, encodeR, extract_or, extract_opcodeBits 20 (by decide), extract_regBits_same.2.1,
    h 23 (by decide) (by decide), h 17 (by decide) (by decide), h 14 (by decide) (by decide), h 11 (by decide) (by decide), BitVec.or_zero, BitVec.zero_or]

@[simp] theorem rs2Field_encodeR : rs2Field (encodeR c rd rs1 rs2 rs3 rs4) = rs2 := by
  have h := fun lo hlo hne => extract_regBits_other lo hlo 17 (by decide) hne
  simp only [rs2Field, regField, encodeR, extract_or, extract_opcodeBits 17 (by decide), extract_regBits_same.2.2.1,
    h 23 (by decide) (by decide), h 20 (by decide) (by decide), h 14 (by decide) (by decide), h 11 (by decide) (by decide), BitVec.or_zero, BitVec.zero_or]

@[simp] theorem rs3Field_encodeR : rs3Field (encodeR c rd rs1 rs2 rs3 rs4) = rs3 := by
  have h := fun lo hlo hne => extract_regBits_other lo hlo 14 (by decide) hne
  simp only [rs3Field, regField, encodeR, extract_or, extract_opcodeBits 14 (by decide), extract_regBits_same.2.2.2.1,
    h 23 (by decide) (by decide), h 20 (by decide) (by decide), h 17 (by decide) (by decide), h 11 (by decide) (by decide), BitVec.or_zero, BitVec.zero_or]

@[simp] theorem rs4Field_encodeR : rs4Field (encodeR c rd rs1 rs2 rs3 rs4) = rs4 := by
  have h := fun lo hlo hne => extract_regBits_other lo hlo 11 (by decide) hne
  simp only [rs4Field, regField, encodeR, extract_or, extract_opcodeBits 11 (by decide), extract_regBits_same.2.2.2.2,
    h 23 (by decide) (by decide), h 20 (by decide) (by decide), h 17 (by decide) (by decide), h 14 (by decide) (by decide), BitVec.or_zero, BitVec.zero_or]

end Fields

/-! ### LDI's word -/

theorem extract_immediate {n : Nat} (h : n < 512) (lo w : Nat) (hlo : 9 ≤ lo) :
    (BitVec.ofNat 32 n).extractLsb' lo w = 0#w := by
  have h9 : 2 ^ 9 ≤ 2 ^ lo := Nat.pow_le_pow_right (by decide) hlo
  apply BitVec.eq_of_toNat_eq
  have hn : n % 2 ^ 32 = n := Nat.mod_eq_of_lt (by omega)
  have hz : n / 2 ^ lo = 0 := Nat.div_eq_of_lt (by omega)
  rw [BitVec.extractLsb'_toNat, BitVec.toNat_ofNat, hn, Nat.shiftRight_eq_div_pow, hz]
  simp

theorem extract_immediate_self (n : Nat) : (BitVec.ofNat 32 n).extractLsb' 0 9 = BitVec.ofNat 9 n := by
  apply BitVec.eq_of_toNat_eq
  simp [BitVec.extractLsb'_toNat]

@[simp] theorem opcodeField_encodeI (rd : Reg) (n : Nat) : opcodeField (encodeI rd n) = 0x01#6 := by
  have h := opcodeField_regBits 23 (by decide) rd
  have hn := extract_immediate (Nat.mod_lt n (by decide : 512 > 0)) 26 6 (by decide)
  have e := opcodeField_opcodeBits .ldi
  simp only [opcodeField] at *
  simp only [encodeI, extract_or, e, h, hn, BitVec.or_zero]
  rfl

@[simp] theorem rdField_encodeI (rd : Reg) (n : Nat) : rdField (encodeI rd n) = rd := by
  have hn := extract_immediate (Nat.mod_lt n (by decide : 512 > 0)) 23 3 (by decide)
  have e := extract_opcodeBits 23 (by decide) .ldi
  simp only [rdField, regField, encodeI, extract_or, e, extract_regBits_same.1, hn, BitVec.or_zero, BitVec.zero_or]

theorem extract_regBits_immediate : ∀ r : Reg, (regBits r 23).extractLsb' 0 9 = 0#9 := by decide

theorem imm9Field_encodeI (rd : Reg) {n : Nat} (h : n < 512) : imm9Field (encodeI rd n) = n := by
  have e : (opcodeBits Command.ldi.opcode).extractLsb' 0 9 = 0#9 := by decide
  simp only [imm9Field, encodeI, extract_or, e, extract_regBits_immediate, Nat.mod_eq_of_lt h, extract_immediate_self]
  simp; omega

/-! ### Pieces under the masks of the table -/

theorem opcodeBits_and_mask (c : Command) : opcodeBits c.opcode &&& c.mask = c.matchWord := by
  cases c <;> decide

theorem and_or_mask (a b m : Word) : (a ||| b) &&& m = (a &&& m) ||| (b &&& m) := by
  ext i hi; simp [Bool.and_or_distrib_right]

/-- The register places a command's word uses (R86, column "fields used"). -/
def Command.places : Command → List Nat
  | .nop => []
  | .ldi => [23]
  | .mov => [23, 20]
  | .fadd => [23, 20, 17]
  | .fsub => [23, 20, 17]
  | .fmul => [23, 20, 17]
  | .finv => [23, 20]
  | .peval => [23, 20, 17, 14]
  | .btrunc => [23, 20]
  | .lagc => [23, 20, 17]
  | .lint => [23, 20, 17, 14, 11]
  | .bclmp => [23, 20]
  | .bavgf => [23, 20, 17, 14, 11]
  | .bavgp => [23, 20, 17, 14, 11]
  | .sadacc => [20, 17]
  | .accclr => []

theorem regBits_and_mask (c : Command) : ∀ lo ∈ c.places, ∀ r : Reg, regBits r lo &&& c.mask = 0#32 := by
  cases c <;> decide

theorem regBits_zero (lo : Nat) : regBits 0 lo = 0#32 := by
  simp [regBits]

/-! ### The decoder, said once -/

theorem opcode_of_mask (c : Command) :
    c.mask.extractLsb' 26 6 = 0x3F#6 ∧ c.matchWord.extractLsb' 26 6 = c.opcode := by
  cases c <;> decide

/-- A word a row selects carries the row's opcode: every mask covers the opcode (R86). -/
theorem opcode_of_selected {c : Command} {w : Word} (h : w &&& c.mask = c.matchWord) : opcodeField w = c.opcode := by
  have h' := congrArg (fun x : Word => x.extractLsb' 26 6) h
  have e : (w &&& c.mask).extractLsb' 26 6 = w.extractLsb' 26 6 &&& c.mask.extractLsb' 26 6 := by ext i hi; simp
  have e2 : w.extractLsb' 26 6 &&& 0x3F#6 = w.extractLsb' 26 6 := BitVec.and_allOnes
  simp only [e, (opcode_of_mask c).1, (opcode_of_mask c).2, e2] at h'
  exact h'

theorem decode_selected {c : Command} {w : Word} (h : w &&& c.mask = c.matchWord) :
    decode w = .command (c.instr w) := by
  simp [decode, opcode_of_selected h, commandOf_opcode, h]

theorem command_instr (c : Command) (w : Word) : (c.instr w).command = c := by cases c <;> rfl

theorem commandOf_eq_some {op : BitVec 6} {c : Command} : commandOf op = some c ↔ op = c.opcode := by
  constructor
  · have h : ∀ op : BitVec 6, ∀ c, commandOf op = some c → op = c.opcode := by
      intro op c; revert op; cases c <;> decide
    exact h op c
  · rintro rfl; exact commandOf_opcode c

/-- Everything the decoder answers as a command (R90). -/
theorem decode_command_iff {w : Word} {i : Instr} :
    decode w = .command i ↔ ∃ c : Command, w &&& c.mask = c.matchWord ∧ i = c.instr w := by
  constructor
  · intro h
    unfold decode at h
    split at h
    · cases h
    · rename_i c hc
      split at h
      · rename_i hm; exact ⟨c, hm, by simpa using h.symm⟩
      · cases h
  · rintro ⟨c, h, rfl⟩; exact decode_selected h

theorem decode_unassigned {w : Word} (h : ∀ c : Command, opcodeField w ≠ c.opcode) :
    decode w = .illegal .unassignedOpcode := by
  unfold decode
  split
  · rfl
  · rename_i c hc; exact absurd (commandOf_eq_some.1 hc) (h c)

theorem decode_unused {w : Word} {c : Command} (h : opcodeField w = c.opcode) (hm : w &&& c.mask ≠ c.matchWord) :
    decode w = .illegal .nonzeroUnusedBit := by
  simp [decode, h, commandOf_opcode, hm]

/-- A field whose bits a row's mask covers reads as the row's match has it. -/
theorem extract_of_selected {w m k : Word} (h : w &&& m = k) (lo n : Nat) (hm : m.extractLsb' lo n = BitVec.allOnes n) :
    w.extractLsb' lo n = k.extractLsb' lo n := by
  have e : (w &&& m).extractLsb' lo n = w.extractLsb' lo n &&& m.extractLsb' lo n := by ext i hi; simp
  rw [h] at e; rw [e, hm, BitVec.and_allOnes]

/-! ### Byte lanes -/

/-- The word four lanes carry, as a number (R53). -/
theorem wordOfLanes_toNat (b0 b1 b2 b3 : Byte) :
    (wordOfLanes b0 b1 b2 b3).toNat = b0.toNat + 2 ^ 8 * b1.toNat + 2 ^ 16 * b2.toNat + 2 ^ 24 * b3.toNat := by
  unfold wordOfLanes
  rw [BitVec.toNat_append, ← Nat.shiftLeft_add_eq_or_of_lt b0.isLt, BitVec.toNat_append,
    ← Nat.shiftLeft_add_eq_or_of_lt b1.isLt, BitVec.toNat_append, ← Nat.shiftLeft_add_eq_or_of_lt b2.isLt]
  simp only [Nat.shiftLeft_eq]
  omega

end Sys2Proof
end

