-- ==== Sys2Proof/Laws/Frames.lean ====
section
/-! SUPPORT. The frames of Safety.lean for the shared operations: what one write of a field register and one recorded
error leave unchanged. -/

namespace Sys2Proof.Safety

open Sys2Proof.Machine

theorem onlyWritesField_setF (s : State) (rd : Reg) {v : GF} {n : Nat} (h : v.val = n) :
    OnlyWritesField rd n s (s.setF rd v) := by
  refine ⟨⟨by simpa using h, fun r hr => State.F_setF_ne s v hr⟩, ?_⟩
  simp [SameStatus, SameOutside]

theorem onlyRecordsError_recordError (s : State) (c : ErrCode) (w : Word) :
    OnlyRecordsError c w s (s.recordError c w) := by
  simp +contextual [OnlyRecordsError, SameFields, SameOutside]

/-- The rows copied from R86 are the columns of the decoder's table. -/
theorem mem_specTable (row : TableRow) :
    row ∈ specTable ↔ row = ⟨row.command, row.command.opcode, row.command.matchWord, row.command.mask⟩ := by
  obtain ⟨c, o, m, k⟩ := row
  cases c <;> simp [specTable, Command.opcode, Command.matchWord, Command.mask]

/-- The fields the decoder reads are those R86 gives the row, at the bits of R83. -/
theorem instr_eq_withFieldsUsed (c : Command) (w : Word) : c.instr w = withFieldsUsed w c := by
  cases c <;> rfl

/-- The destination of a decoded command is the register its word names at bits 25:23, and the command is one of those
R22 lists. -/
theorem destination_of_decode {w : Word} {i : Instr} {rd : Reg} (hd : decode w = .command i)
    (h : destination i = some rd) : i.command ∈ fieldWriters ∧ rd = regAt w 23 := by
  obtain ⟨c, -, rfl⟩ := decode_command_iff.1 hd
  rw [instr_eq_withFieldsUsed] at h ⊢
  cases c <;> simp_all [withFieldsUsed, destination, fieldWriters, Instr.command]

end Sys2Proof.Safety
end

