-- ==== Sys2Proof/Laws/PerInstr.lean ====
section
/-! SUPPORT. Statements about every instruction as syntax, one lemma per constructor. -/

namespace Sys2Proof

/-- The opcode column: an instruction's word carries the opcode of its row (R86, R93). -/
def Laws.OpcodeOfEncoding.Statement (i : Instr) : Prop := opcodeField (encode i) = i.command.opcode

/-- The columns match and mask: an instruction's word is selected by its own row, "A word w selects a command exactly when
`(w & mask) = match`" (R86). -/
def Laws.SelectedByItsRow.Statement (i : Instr) : Prop := encode i &&& i.command.mask = i.command.matchWord

/-! ### The opcode -/

theorem Laws.OpcodeOfEncoding.nop : Laws.OpcodeOfEncoding.Statement .nop := by
  simp [Laws.OpcodeOfEncoding.Statement, encode, Instr.command]

theorem Laws.OpcodeOfEncoding.ldi (rd : Reg) (imm9 : Nat) : Laws.OpcodeOfEncoding.Statement (.ldi rd imm9) := by
  simp [Laws.OpcodeOfEncoding.Statement, encode, Instr.command, Command.opcode]

theorem Laws.OpcodeOfEncoding.mov (rd rs1 : Reg) : Laws.OpcodeOfEncoding.Statement (.mov rd rs1) := by
  simp [Laws.OpcodeOfEncoding.Statement, encode, Instr.command]

theorem Laws.OpcodeOfEncoding.fadd (rd rs1 rs2 : Reg) : Laws.OpcodeOfEncoding.Statement (.fadd rd rs1 rs2) := by
  simp [Laws.OpcodeOfEncoding.Statement, encode, Instr.command]

theorem Laws.OpcodeOfEncoding.fsub (rd rs1 rs2 : Reg) : Laws.OpcodeOfEncoding.Statement (.fsub rd rs1 rs2) := by
  simp [Laws.OpcodeOfEncoding.Statement, encode, Instr.command]

theorem Laws.OpcodeOfEncoding.fmul (rd rs1 rs2 : Reg) : Laws.OpcodeOfEncoding.Statement (.fmul rd rs1 rs2) := by
  simp [Laws.OpcodeOfEncoding.Statement, encode, Instr.command]

theorem Laws.OpcodeOfEncoding.finv (rd rs1 : Reg) : Laws.OpcodeOfEncoding.Statement (.finv rd rs1) := by
  simp [Laws.OpcodeOfEncoding.Statement, encode, Instr.command]

theorem Laws.OpcodeOfEncoding.peval (rd rs1 rs2 rs3 : Reg) : Laws.OpcodeOfEncoding.Statement (.peval rd rs1 rs2 rs3) := by
  simp [Laws.OpcodeOfEncoding.Statement, encode, Instr.command]

theorem Laws.OpcodeOfEncoding.btrunc (rd rs1 : Reg) : Laws.OpcodeOfEncoding.Statement (.btrunc rd rs1) := by
  simp [Laws.OpcodeOfEncoding.Statement, encode, Instr.command]

theorem Laws.OpcodeOfEncoding.lagc (rd rs1 rs2 : Reg) : Laws.OpcodeOfEncoding.Statement (.lagc rd rs1 rs2) := by
  simp [Laws.OpcodeOfEncoding.Statement, encode, Instr.command]

theorem Laws.OpcodeOfEncoding.lint (rd rs1 rs2 rs3 rs4 : Reg) : Laws.OpcodeOfEncoding.Statement (.lint rd rs1 rs2 rs3 rs4) := by
  simp [Laws.OpcodeOfEncoding.Statement, encode, Instr.command]

theorem Laws.OpcodeOfEncoding.bclmp (rd rs1 : Reg) : Laws.OpcodeOfEncoding.Statement (.bclmp rd rs1) := by
  simp [Laws.OpcodeOfEncoding.Statement, encode, Instr.command]

theorem Laws.OpcodeOfEncoding.bavgf (rd rs1 rs2 rs3 rs4 : Reg) : Laws.OpcodeOfEncoding.Statement (.bavgf rd rs1 rs2 rs3 rs4) := by
  simp [Laws.OpcodeOfEncoding.Statement, encode, Instr.command]

theorem Laws.OpcodeOfEncoding.bavgp (rd rs1 rs2 rs3 rs4 : Reg) : Laws.OpcodeOfEncoding.Statement (.bavgp rd rs1 rs2 rs3 rs4) := by
  simp [Laws.OpcodeOfEncoding.Statement, encode, Instr.command]

theorem Laws.OpcodeOfEncoding.sadacc (rs1 rs2 : Reg) : Laws.OpcodeOfEncoding.Statement (.sadacc rs1 rs2) := by
  simp [Laws.OpcodeOfEncoding.Statement, encode, Instr.command]

theorem Laws.OpcodeOfEncoding.accclr : Laws.OpcodeOfEncoding.Statement .accclr := by
  simp [Laws.OpcodeOfEncoding.Statement, encode, Instr.command]

/-! ### The row -/

theorem Laws.SelectedByItsRow.nop : Laws.SelectedByItsRow.Statement .nop := by
  simp [Laws.SelectedByItsRow.Statement, encode, encodeR, Instr.command, opcodeBits_and_mask .nop, regBits_zero]

theorem immediate_and_mask {n : Nat} (h : n < 512) : BitVec.ofNat 32 n &&& Command.ldi.mask = 0#32 := by
  apply BitVec.eq_of_getLsbD_eq
  intro i hi
  have hz : 9 ≤ i → n.testBit i = false := fun h9 =>
    Nat.testBit_lt_two_pow (lt_of_lt_of_le h (Nat.pow_le_pow_right (by decide) h9 : 2 ^ 9 ≤ 2 ^ i))
  have hm : ∀ j, j < 9 → Command.ldi.mask.getLsbD j = false := by decide
  by_cases h9 : 9 ≤ i
  · rw [BitVec.getLsbD_and, BitVec.getLsbD_ofNat, hz h9]; simp
  · rw [BitVec.getLsbD_and, hm i (by omega)]; simp

theorem Laws.SelectedByItsRow.ldi (rd : Reg) (imm9 : Nat) : Laws.SelectedByItsRow.Statement (.ldi rd imm9) := by
  have h := regBits_and_mask .ldi
  simp [Laws.SelectedByItsRow.Statement, encode, encodeI, Instr.command, and_or_mask, opcodeBits_and_mask .ldi,
    immediate_and_mask (Nat.mod_lt imm9 (by decide : 512 > 0)), h 23 (by decide)]

theorem Laws.SelectedByItsRow.mov (rd rs1 : Reg) : Laws.SelectedByItsRow.Statement (.mov rd rs1) := by
  have h := regBits_and_mask .mov
  simp [Laws.SelectedByItsRow.Statement, encode, encodeR, Instr.command, and_or_mask, opcodeBits_and_mask .mov,
    regBits_zero, h 23 (by decide), h 20 (by decide)]

theorem Laws.SelectedByItsRow.fadd (rd rs1 rs2 : Reg) : Laws.SelectedByItsRow.Statement (.fadd rd rs1 rs2) := by
  have h := regBits_and_mask .fadd
  simp [Laws.SelectedByItsRow.Statement, encode, encodeR, Instr.command, and_or_mask, opcodeBits_and_mask .fadd,
    regBits_zero, h 23 (by decide), h 20 (by decide), h 17 (by decide)]

theorem Laws.SelectedByItsRow.fsub (rd rs1 rs2 : Reg) : Laws.SelectedByItsRow.Statement (.fsub rd rs1 rs2) := by
  have h := regBits_and_mask .fsub
  simp [Laws.SelectedByItsRow.Statement, encode, encodeR, Instr.command, and_or_mask, opcodeBits_and_mask .fsub,
    regBits_zero, h 23 (by decide), h 20 (by decide), h 17 (by decide)]

theorem Laws.SelectedByItsRow.fmul (rd rs1 rs2 : Reg) : Laws.SelectedByItsRow.Statement (.fmul rd rs1 rs2) := by
  have h := regBits_and_mask .fmul
  simp [Laws.SelectedByItsRow.Statement, encode, encodeR, Instr.command, and_or_mask, opcodeBits_and_mask .fmul,
    regBits_zero, h 23 (by decide), h 20 (by decide), h 17 (by decide)]

theorem Laws.SelectedByItsRow.finv (rd rs1 : Reg) : Laws.SelectedByItsRow.Statement (.finv rd rs1) := by
  have h := regBits_and_mask .finv
  simp [Laws.SelectedByItsRow.Statement, encode, encodeR, Instr.command, and_or_mask, opcodeBits_and_mask .finv,
    regBits_zero, h 23 (by decide), h 20 (by decide)]

theorem Laws.SelectedByItsRow.peval (rd rs1 rs2 rs3 : Reg) : Laws.SelectedByItsRow.Statement (.peval rd rs1 rs2 rs3) := by
  have h := regBits_and_mask .peval
  simp [Laws.SelectedByItsRow.Statement, encode, encodeR, Instr.command, and_or_mask, opcodeBits_and_mask .peval,
    regBits_zero, h 23 (by decide), h 20 (by decide), h 17 (by decide), h 14 (by decide)]

theorem Laws.SelectedByItsRow.btrunc (rd rs1 : Reg) : Laws.SelectedByItsRow.Statement (.btrunc rd rs1) := by
  have h := regBits_and_mask .btrunc
  simp [Laws.SelectedByItsRow.Statement, encode, encodeR, Instr.command, and_or_mask, opcodeBits_and_mask .btrunc,
    regBits_zero, h 23 (by decide), h 20 (by decide)]

theorem Laws.SelectedByItsRow.lagc (rd rs1 rs2 : Reg) : Laws.SelectedByItsRow.Statement (.lagc rd rs1 rs2) := by
  have h := regBits_and_mask .lagc
  simp [Laws.SelectedByItsRow.Statement, encode, encodeR, Instr.command, and_or_mask, opcodeBits_and_mask .lagc,
    regBits_zero, h 23 (by decide), h 20 (by decide), h 17 (by decide)]

theorem Laws.SelectedByItsRow.lint (rd rs1 rs2 rs3 rs4 : Reg) : Laws.SelectedByItsRow.Statement (.lint rd rs1 rs2 rs3 rs4) := by
  have h := regBits_and_mask .lint
  simp [Laws.SelectedByItsRow.Statement, encode, encodeR, Instr.command, and_or_mask, opcodeBits_and_mask .lint,
    h 23 (by decide), h 20 (by decide), h 17 (by decide), h 14 (by decide), h 11 (by decide)]

theorem Laws.SelectedByItsRow.bclmp (rd rs1 : Reg) : Laws.SelectedByItsRow.Statement (.bclmp rd rs1) := by
  have h := regBits_and_mask .bclmp
  simp [Laws.SelectedByItsRow.Statement, encode, encodeR, Instr.command, and_or_mask, opcodeBits_and_mask .bclmp,
    regBits_zero, h 23 (by decide), h 20 (by decide)]

theorem Laws.SelectedByItsRow.bavgf (rd rs1 rs2 rs3 rs4 : Reg) : Laws.SelectedByItsRow.Statement (.bavgf rd rs1 rs2 rs3 rs4) := by
  have h := regBits_and_mask .bavgf
  simp [Laws.SelectedByItsRow.Statement, encode, encodeR, Instr.command, and_or_mask, opcodeBits_and_mask .bavgf,
    h 23 (by decide), h 20 (by decide), h 17 (by decide), h 14 (by decide), h 11 (by decide)]

theorem Laws.SelectedByItsRow.bavgp (rd rs1 rs2 rs3 rs4 : Reg) : Laws.SelectedByItsRow.Statement (.bavgp rd rs1 rs2 rs3 rs4) := by
  have h := regBits_and_mask .bavgp
  simp [Laws.SelectedByItsRow.Statement, encode, encodeR, Instr.command, and_or_mask, opcodeBits_and_mask .bavgp,
    h 23 (by decide), h 20 (by decide), h 17 (by decide), h 14 (by decide), h 11 (by decide)]

theorem Laws.SelectedByItsRow.sadacc (rs1 rs2 : Reg) : Laws.SelectedByItsRow.Statement (.sadacc rs1 rs2) := by
  have h := regBits_and_mask .sadacc
  simp [Laws.SelectedByItsRow.Statement, encode, encodeR, Instr.command, and_or_mask, opcodeBits_and_mask .sadacc,
    regBits_zero, h 20 (by decide), h 17 (by decide)]

theorem Laws.SelectedByItsRow.accclr : Laws.SelectedByItsRow.Statement .accclr := by
  simp [Laws.SelectedByItsRow.Statement, encode, encodeR, Instr.command, opcodeBits_and_mask .accclr, regBits_zero]

end Sys2Proof
end

