-- ==== Sys2Proof/Laws/Procedures.lean ====
section
/-! SUPPORT. What each piece of a host procedure answers, and the induction over the positions of a payload, said once. -/

namespace Sys2Proof.Machine

/-! ### Sequencing -/

@[simp] theorem andThen_next {α β : Type} (a : α) (t : State) (k : α → State → HostStep β) :
    andThen (.next (a, t)) k = k a t := rfl

@[simp] theorem endWith_next {α β : Type} (a : α) (t : State) (k : α → State → ProcResult β) :
    endWith (.next (a, t)) k = k a t := rfl

@[simp] theorem noValue_next (t : State) : noValue (.next t) = .next ((), t) := rfl

@[simp] theorem issueAll_nil (s : State) : issueAll [] s = .next ((), s) := rfl

/-- Issuing one command runs it in the state with LASTCMD written (R55). -/
theorem issueAll_cons {i : Instr} {is : List Instr} {s t : State} (hr : s.resetLine = false)
    (hd : decode (encode i) = .command i) (h : exec i (s.setLastCmd (encode i)) = .next t) :
    issueAll (i :: is) s = issueAll is t := by
  have e : takeEvent (hostCommand (encode i)) s = .next t := by
    rw [takeEvent_hostCommand _ hr, commandWrite_command hd]; exact h
  simp only [issueAll, List.map_cons]
  rw [takeEvents_cons e]

/-! ### The host's reads -/

theorem readWord_eq {off : Nat} {s : State} (hr : s.resetLine = false) (ha : off % 4 = 0) (hw : off < 0x100) :
    readWord off s = .next (busRead off s, s.logRead (busRead off s)) := by
  simp [readWord, takeEvent_hostReadAt hr ha hw]

/-- `readF` returns the register's number (R63). -/
theorem readF_eq (r : Reg) {s : State} (hr : s.resetLine = false) :
    readF r s = .next ((s.F r).val, s.logRead (BitVec.ofNat 32 (s.F r).val)) := by
  have h1 : fieldOffset r % 4 = 0 := by unfold fieldOffset; omega
  have h2 : fieldOffset r < 0x100 := by have := r.isLt; unfold fieldOffset; omega
  have h3 := (s.F r).isLt
  simp only [readF, readWord_eq hr h1 h2, andThen_next, busRead_fieldOffset]
  congr 2
  simp [BitVec.extractLsb'_toNat]
  omega

theorem computeByte_eq {is : List Instr} {r : Reg} {s t : State} (h : issueAll is s = .next ((), t))
    (hr : t.resetLine = false) :
    computeByte is r s = .next (BitVec.ofNat 8 (t.F r).val, t.logRead (BitVec.ofNat 32 (t.F r).val)) := by
  simp [computeByte, h, readF_eq r hr]

/-! ### Loads of bytes and field elements -/

/-- A byte is a field element (R4). -/
def byteElement (b : Byte) : GF := ⟨b.toNat, by have := b.isLt; omega⟩

@[simp] theorem byteElement_val (b : Byte) : (byteElement b).val = b.toNat := rfl

theorem exec_ldi_element (rd : Reg) (a : GF) (s : State) : exec (.ldi rd a.val) s = .next (s.setF rd a) := by
  have := a.isLt
  simp only [exec, execLdi, immediateElement_of_le (show a.val ≤ 256 by omega)]

theorem exec_ldi_byte (rd : Reg) (b : Byte) (s : State) :
    exec (.ldi rd b.toNat) s = .next (s.setF rd (byteElement b)) := exec_ldi_element rd (byteElement b) s

/-! ### The begin and the end of a procedure -/

/-- The begin clears the three flags, the error record and CLAMPCNT, and touches nothing else (R182). -/
theorem beginProcedure_eq {s : State} (hr : s.resetLine = false) :
    beginProcedure s = .next ((), ((s.clearError.clearWarnClamp).clearAccOvf).setClampCnt 0#32) := by
  have h1 : takeEvent (hostWriteAt 0x08 7#32) s = .next ((s.clearError.clearWarnClamp).clearAccOvf) :=
    takeEvent_hostWriteAt 7#32 hr (by decide) (by decide)
  have h2 : takeEvent (hostWriteAt 0x18 0#32) ((s.clearError.clearWarnClamp).clearAccOvf) =
      .next (((s.clearError.clearWarnClamp).clearAccOvf).setClampCnt 0#32) :=
    takeEvent_hostWriteAt 0#32 hr (by decide) (by decide)
  simp only [beginProcedure]
  rw [takeEvents_cons h1, takeEvents_cons h2]; rfl

theorem statusWord_bit0 (s : State) : s.statusWord.getLsbD 0 = s.err := by
  unfold State.statusWord
  cases s.err <;> cases s.accOvf <;> cases s.warnClamp <;> cases s.errCode <;> rfl

/-- With no error recorded a procedure ends with its output (R182). -/
theorem conclude_of_no_error {α : Type} (v : α) (ws : List HostWarning) {s : State} (hr : s.resetLine = false)
    (he : s.err = false) : conclude v ws s = .done v ws (s.logRead s.statusWord) := by
  have hb : busRead 0x08 s = s.statusWord := rfl
  simp only [conclude, readWord_eq hr (off := 0x08) (by decide) (by decide), endWith_next, hb, statusWord_bit0, he]
  rfl

/-- With an error recorded it is fatal, with no output (R182). -/
theorem conclude_of_error {α : Type} (v : α) (ws : List HostWarning) {s : State} (hr : s.resetLine = false)
    (he : s.err = true) :
    conclude v ws s = .fatal (.unit (s.statusWord.extractLsb' 4 4)) (s.logRead s.statusWord) := by
  have hb : busRead 0x08 s = s.statusWord := rfl
  simp only [conclude, readWord_eq hr (off := 0x08) (by decide) (by decide), endWith_next, hb, statusWord_bit0, he]
  rfl

theorem isShareCoordinate_iff (x : Nat) : isShareCoordinate x = true ↔ 1 ≤ x ∧ x ≤ 3 := decide_eq_true_iff

/-! ### The loop over positions -/

/-- The induction every procedure with one byte per position uses: each item's commands give its byte and add its weight
to what the invariant counts, so the loop gives all bytes in order and adds all weights. -/
theorem computeBytes_next {α : Type} (Inv : Nat → State → Prop) (r : Reg) (cmds : α → List Instr) (f : α → Byte)
    (g : α → Nat)
    (h : ∀ a n s, Inv n s → ∃ t, computeByte (cmds a) r s = .next (f a, t) ∧ Inv (n + g a) t) :
    ∀ (xs : List α) (n : Nat) (s : State), Inv n s →
      ∃ t, computeBytes r (xs.map cmds) s = .next (xs.map f, t) ∧ Inv (n + (xs.map g).sum) t := by
  intro xs
  induction xs with
  | nil => intro n s hs; exact ⟨s, rfl, by simpa using hs⟩
  | cons a xs ih =>
    intro n s hs
    obtain ⟨t, ht, hi⟩ := h a n s hs
    obtain ⟨u, hu, hj⟩ := ih _ t hi
    exact ⟨u, by simp [computeBytes, ht, hu], by simpa [Nat.add_assoc] using hj⟩

end Sys2Proof.Machine
end

