-- ==== Sys2Proof/Tests/Slice0.lean ====
section
/-! SUPPORT. Tests: expected values are the spec's own (30_encoding.md, the examples of the commands' rules, and
95_test_vectors.md), and a witness for the hypotheses of each statement of Certificates/Slice0/Obligations.lean. -/

namespace Sys2Proof.Tests

open Sys2Proof.Machine Sys2Proof.Safety

/-! ### Helpers -/

/-- The state after reset with some field registers loaded. -/
def withF (vs : List (Reg × GF)) : State := vs.foldl (fun s p => s.setF p.1 p.2) State.reset

/-- Whether an answer is a next state with a property. -/
def nextHas (r : Result) (p : State → Bool) : Bool :=
  match r with
  | .next t => p t
  | .fault _ => false
  | .refused _ => false

/-- Whether an answer is a refusal for a reason. -/
def refusedFor (r : Result) (why : Refusal) : Bool :=
  match r with
  | .next _ => false
  | .fault _ => false
  | .refused q => q == why

/-- Whether an answer is a fault for a reason. -/
def faultFor (r : Result) (why : Fault) : Bool :=
  match r with
  | .next _ => false
  | .fault q => q == why
  | .refused _ => false

/-- Whether a word, executed in a state, leaves a number in a field register and no error. -/
def gives (w : Word) (s : State) (r : Reg) (n : Nat) : Bool :=
  nextHas (executeWord w s) fun t => (t.F r).val == n && !t.err

/-- Whether a word, executed in a state, records an error code with the word itself. -/
def raises (w : Word) (s : State) (c : ErrCode) : Bool :=
  nextHas (executeWord w s) fun t => t.err && t.errCode == c && t.errInfo == w && t.fregs == s.fregs && t.acc == s.acc

/-! ### WellFormed: the one check, and an ill-formed term -/

theorem test_wellFormed_refuses_ldi_512 : (Instr.ldi 0 512).wellFormed = false := by decide
theorem test_wellFormed_takes_ldi_511 : (Instr.ldi 7 511).wellFormed = true := by decide
theorem test_assemblable_refuses_ldi_257 : (Instr.ldi 0 257).assemblable = false := by decide

/-! ### Decoding: words written out bit by bit from R81, R82 and R86 -/

theorem test_decode_nop : decode 0b000000_000_000_000_000_000_00000000000#32 = .command .nop := by decide
theorem test_decode_ldi : decode 0b000001_101_00000000000000_100101100#32 = .command (.ldi 5 300) := by decide
theorem test_decode_mov : decode 0b000010_001_111_000_000_000_00000000000#32 = .command (.mov 1 7) := by decide
theorem test_decode_fadd : decode 0b000100_011_001_010_000_000_00000000000#32 = .command (.fadd 3 1 2) := by decide
theorem test_decode_fsub : decode 0b000101_011_001_010_000_000_00000000000#32 = .command (.fsub 3 1 2) := by decide
theorem test_decode_fmul : decode 0b000110_011_001_010_000_000_00000000000#32 = .command (.fmul 3 1 2) := by decide
theorem test_decode_finv : decode 0b000111_011_001_000_000_000_00000000000#32 = .command (.finv 3 1) := by decide
theorem test_decode_peval : decode 0b001000_100_000_001_010_000_00000000000#32 = .command (.peval 4 0 1 2) := by decide
theorem test_decode_btrunc : decode 0b001001_101_100_000_000_000_00000000000#32 = .command (.btrunc 5 4) := by decide
theorem test_decode_lagc : decode 0b001100_100_000_001_000_000_00000000000#32 = .command (.lagc 4 0 1) := by decide
theorem test_decode_lint : decode 0b001101_110_010_100_011_101_00000000000#32 = .command (.lint 6 2 4 3 5) := by decide
theorem test_decode_bclmp : decode 0b001110_111_110_000_000_000_00000000000#32 = .command (.bclmp 7 6) := by decide
theorem test_decode_bavgf : decode 0b010000_100_000_001_010_011_00000000000#32 = .command (.bavgf 4 0 1 2 3) := by decide
theorem test_decode_bavgp : decode 0b010001_100_000_001_010_011_00000000000#32 = .command (.bavgp 4 0 1 2 3) := by decide
theorem test_decode_sadacc : decode 0b010100_000_001_010_000_000_00000000000#32 = .command (.sadacc 1 2) := by decide
theorem test_decode_accclr : decode 0b010101_000_000_000_000_000_00000000000#32 = .command .accclr := by decide

/-- R88's SADACC with a 1 in rd, and an opcode of R87. -/
theorem test_decode_illegal :
    decode 0x5094_0000#32 = .illegal .nonzeroUnusedBit ∧ decode 0x0C00_0000#32 = .illegal .unassignedOpcode := by decide

/-- R53: the lanes of 0x0780_0100 in ascending address order are 00 01 80 07. -/
theorem test_decodeLanes : decodeLanes [0x00#8, 0x01#8, 0x80#8, 0x07#8] = some (.command (.ldi 7 256), []) := by decide

theorem test_decodeTableWord : decodeTableWord 32 0x11940000 = some (.fadd 3 1 2) := by decide

/-! ### The commands: the examples of their rules and rows of 95_test_vectors.md -/

theorem test_nop : nextHas (executeWord 0x0000_0000#32 (withF [(3, 7)])) (· == withF [(3, 7)]) = true := by decide
theorem test_ldi : gives 0x0780_0100#32 State.reset 7 256 = true := by decide
theorem test_ldi_range : raises 0x0500_012C#32 State.reset .range = true := by decide
theorem test_mov : gives 0x08F0_0000#32 (withF [(1, 3), (7, 256)]) 1 256 = true := by decide
theorem test_fadd : gives 0x1194_0000#32 (withF [(1, 255), (2, 2)]) 3 0 = true := by decide
theorem test_fadd_same : gives 0x1092_0000#32 (withF [(1, 200)]) 1 143 = true := by decide
theorem test_fsub : gives 0x1594_0000#32 (withF [(1, 5), (2, 10)]) 3 252 = true := by decide
theorem test_fmul : gives 0x1994_0000#32 (withF [(1, 200), (2, 100)]) 3 211 = true := by decide
theorem test_fmul_minus_one : gives 0x1994_0000#32 (withF [(1, 256), (2, 256)]) 3 1 = true := by decide
theorem test_finv : gives 0x1D90_0000#32 (withF [(1, 3)]) 3 86 = true := by decide
theorem test_finv_zero : raises 0x1C00_0000#32 State.reset .domain = true := by decide
theorem test_peval : gives 0x2202_8000#32 (withF [(0, 10), (1, 7), (2, 3)]) 4 31 = true := by decide
theorem test_btrunc : gives 0x26C0_0000#32 (withF [(4, 256), (5, 9)]) 5 0 = true := by decide
theorem test_lagc : gives 0x3202_0000#32 (withF [(0, 1), (1, 3)]) 4 130 = true := by decide
theorem test_lagc_equal : raises 0x3202_0000#32 (withF [(0, 2), (1, 2)]) .dupx = true := by decide

theorem test_lint : gives 0x3728_E800#32 (withF [(2, 150), (4, 130), (3, 250), (5, 128)]) 6 100 = true := by decide

/-- R146's example: 256 becomes 255, with the warning and the count. -/
theorem test_bclmp :
    nextHas (executeWord 0x3BE0_0000#32 (withF [(6, 256)]))
      (fun t => t.F 7 == 255 && t.warnClamp && t.clampCnt == 1#32 && !t.err) = true := by decide

theorem test_bclmp_byte :
    nextHas (executeWord 0x3BE0_0000#32 (withF [(6, 255)]))
      (fun t => t.F 7 == 255 && !t.warnClamp && t.clampCnt == 0#32) = true := by decide

theorem test_bavgf : gives 0x4202_9800#32 (withF [(0, 10), (1, 20), (2, 30), (3, 40)]) 4 25 = true := by decide
theorem test_bavgp : gives 0x4602_9800#32 (withF [(0, 10), (1, 20), (2, 30), (3, 40)]) 4 25 = true := by decide
theorem test_bavgp_range : raises 0x4602_9800#32 (withF [(3, 256)]) .range = true := by decide

/-- Program P3, step 8: ACC = 5. -/
theorem test_sadacc :
    nextHas (executeWord 0x5014_0000#32 (withF [(1, 10), (2, 15)])) (fun t => t.acc == 5#32 && !t.accOvf) = true := by decide

/-- R171: a wrap keeps the low 32 bits and sets ACC_OVF. -/
theorem test_sadacc_wrap :
    nextHas (executeWord 0x5014_0000#32 ((withF [(1, 255)]).setAcc 0xFFFFFFFF#32))
      (fun t => t.acc == 254#32 && t.accOvf && !t.err) = true := by decide

theorem test_accclr :
    nextHas (executeWord 0x5400_0000#32 (State.reset.setAcc 9#32)) (· == State.reset) = true := by decide

/-- A second error is not recorded (R214). -/
theorem test_first_error_kept :
    nextHas (executeWord 0x0C00_0000#32 (State.reset.recordError .domain 0x1C00_0000#32))
      (fun t => t.errCode == .domain && t.errInfo == 0x1C00_0000#32) = true := by decide

/-! ### The window and the step -/

/-- The first instruction after reset runs (log 2), and LASTCMD holds its word (R32). -/
theorem test_withFetchWord :
    nextHas (step (State.reset.withFetchWord 32 0x0780_0100))
      (fun t => t.F 7 == 256 && t.lastCmd == 0x0780_0100#32 && t.pending == []) = true := by decide

/-- A read of STATUS after an error of code 3 and a clamp returns 0x33. -/
theorem test_status_read :
    nextHas (takeEvent (hostReadAt 0x08) ((State.reset.recordError .domain 5#32).warnClampEvent))
      (fun t => t.reads == [0x33#32]) = true := by decide

theorem test_status_write :
    nextHas (takeEvent (hostWriteAt 0x08 1#32) ((State.reset.recordError .domain 5#32).warnClampEvent))
      (fun t => !t.err && t.errCode == .none && t.errInfo == 0#32 && t.warnClamp) = true := by decide

theorem test_id_read : nextHas (takeEvent (hostReadAt 0x00) State.reset) (fun t => t.reads == [0x0101_0001#32]) = true := by decide

theorem test_outside_window : faultFor (takeEvent (hostReadAt 0x100) State.reset) .outsideWindow = true := by decide

theorem test_refusals :
    refusedFor (takeEvent (hostReadAt 0x02) State.reset) .misalignedAccess = true ∧
    refusedFor (takeEvent (.access ⟨.host, .byte, 0, .read⟩) State.reset) .narrowAccess = true ∧
    refusedFor (takeEvent (hostReadAt 0x00) (State.reset.setResetLine true)) .accessDuringReset = true ∧
    refusedFor (takeEvent (.access ⟨.other, .word, 0, .read⟩) State.reset) .secondMaster = true := by decide

/-! ### The assembler (R91, R92) -/

theorem test_assemble :
    assembleLine "FADD F3, F1, F2 ; sum".toList = .command (.fadd 3 1 2) ∧
    assembleLine "LDI F2, 0x1F".toList = .command (.ldi 2 31) ∧ assembleLine "LDINV4 F5".toList = .command (.ldi 5 193) ∧
    assembleLine "; a comment".toList = .empty ∧ assembleLine "FADD F3, F1".toList = .rejected := by decide

/-! ### The host procedures: the worked examples E4 and E5 of the source -/

/-- `sae([10,20,30],[15,18,33])` is 10. -/
theorem test_sae :
    (match sae [10#8, 20#8, 30#8] 1 1 [15#8, 18#8, 33#8] 1 1 State.reset with
      | .done n ws _ => n == 10 && ws == []
      | _ => false) = true := by decide

/-- The secret 128 with coefficient 5 has the shares 133, 138, 143. -/
theorem test_generate :
    (match generate [128#8] 3 2 (fun _ => 5) State.reset with
      | .done out _ _ => out == [(1, [133#8]), (2, [138#8]), (3, [143#8])]
      | _ => false) = true := by decide

/-! ### Witnesses: states and operands that meet the hypotheses of each statement -/

/-- The state after reset with these events pending. -/
def withEvents (es : List BusEvent) : State := State.reset.setPending es

theorem witness_WordSelectsCommandExactlyWhenMaskedBitsMatch :
    (∀ row ∈ specTable, row.matchWord &&& row.mask = row.matchWord) ∧ decode 0#32 = .command .nop := by decide

theorem witness_IllegalWordsRecordIllegalAndNothingElse :
    (∀ row ∈ specTable, (0x0C00_0000#32).extractLsb' 26 6 ≠ row.opcode) ∧
    ∀ row ∈ specTable, (row.matchWord ||| 0x200#32).extractLsb' 26 6 = row.opcode ∧
      (row.matchWord ||| 0x200#32) &&& row.mask ≠ row.matchWord := by decide

theorem witness_EncodeAndDecodeAreInverse :
    (Instr.ldi 7 511).wellFormed = true ∧ (Instr.lint 7 7 7 7 7).wellFormed = true ∧
    decode 0x0780_01FF#32 = .command (.ldi 7 511) := by decide

theorem witness_DecodedInstructionsAreWellFormed : decode 0x0400_01FF#32 = .command (.ldi 0 511) := by decide

theorem witness_AssemblerRejectsImmediatesAbove256 :
    parseReg "F7".toList = some 7 ∧ parseImmediate "256".toList = some 256 ∧ parseImmediate "0x101".toList = some 257 ∧
    assembleLine "SADACC F1, F2".toList = .command (.sadacc 1 2) := by decide

theorem witness_StepRunsTheWordWrittenToCmd :
    State.reset.resetLine = false ∧ decode 0x1194_0000#32 = .command (.fadd 3 1 2) ∧
    decode 0x0C00_0000#32 = .illegal .unassignedOpcode := by decide

theorem witness_BusReadReturnsTheRegisterAndChangesNothing :
    State.reset.resetLine = false ∧ ∀ off ∈ [0x00, 0x1C, 0x20, 0x3C, 0x40, 0xFC], off % 4 = 0 ∧ off < 0x100 := by decide

theorem witness_ReservedAndReadOnlyOffsetsIgnoreWrites :
    State.reset.resetLine = false ∧
    (∀ off ∈ [0x00, 0x14, 0x1C, 0x20, 0xFC], off % 4 = 0 ∧ off < 0x100 ∧
      (off = 0x00 ∨ off = 0x14 ∨ off = 0x1C ∨ 0x20 ≤ off)) ∧
    ∀ off ∈ [0x1C, 0x40, 0xFC], off % 4 = 0 ∧ off < 0x100 ∧ (off = 0x1C ∨ 0x40 ≤ off) := by decide

/-- The one hypothesis of the statements on STATUS, ACC and CLAMPCNT writes. -/
theorem witness_resetLine_released : State.reset.resetLine = false := by decide

theorem witness_NarrowOrMisalignedAccessIsRefused :
    (withEvents [.access ⟨.host, .half, 0x08, .read⟩]).pending = [.access ⟨.host, .half, 0x08, .read⟩] ∧
    AccessWidth.half ≠ .word ∧ 0x01 % 4 ≠ 0 := by decide

theorem witness_AccessDuringResetOrBySecondHostIsRefused :
    ((withEvents [hostReadAt 0x100]).setResetLine true).resetLine = true ∧
    (withEvents [.access ⟨.other, .word, 0, .read⟩]).pending = [.access ⟨.other, .word, 0, .read⟩] ∧
    (withEvents [hostReadAt 0x100]).resetLine = false ∧ 0x100 % 4 = 0 := by decide

theorem witness_EitherResetZeroesEveryRegister :
    ResetEvent .assertReset ∧ ResetEvent (hostWriteAt 0x04 0x0000_0001#32) ∧
    (withEvents [hostWriteAt 0x04 1#32]).resetLine = false ∧ (0xFFFF_FFFE#32).getLsbD 0 = false ∧
    hostWriteAt 0x04 1#32 ≠ .assertReset :=
  ⟨.inl rfl, .inr ⟨1#32, rfl, by decide⟩, by decide, by decide, by decide⟩

/-- The reset input: its level after an assertion, a reset through CTRL and a release. -/
theorem test_reset_levels :
    nextHas (step (withEvents [.assertReset])) (fun t => t.resetLine) = true ∧
    nextHas (step (withEvents [hostWriteAt 0x04 1#32])) (fun t => !t.resetLine) = true ∧
    nextHas (step ((withEvents [.releaseReset]).setResetLine true)) (fun t => !t.resetLine) = true := by decide

theorem witness_CtrlWriteResetsTheUnitOrDoesNothing :
    (0x0000_0001#32).getLsbD 0 = true ∧ (0xFFFF_FFFE#32).getLsbD 0 = false := by decide

theorem witness_WindowBytesAreLittleEndianLanes : 0xFC % 4 = 0 ∧ 0xFC < 0x100 ∧ 3 < 4 ∧
    (0x0780_0100#32).toNat = (0x00#8).toNat + 2 ^ 8 * (0x01#8).toNat + 2 ^ 16 * (0x80#8).toNat + 2 ^ 24 * (0x07#8).toNat := by
  decide

theorem witness_LdiLoadsFieldElementsAndRejectsOthers :
    0x0400_0101#32 &&& 0xFC7FFE00#32 = 0x04000000#32 ∧ ((0x0400_0101#32).extractLsb' 0 9).toNat = 257 ∧
    0x0780_01FF#32 &&& 0xFC7FFE00#32 = 0x04000000#32 ∧ ((0x0780_01FF#32).extractLsb' 0 9).toNat = 511 := by decide

theorem witness_FinvWritesTheUniqueInverseOrRaisesDomain :
    (withF [(1, 1)]).F 1 ≠ 0 ∧ (withF [(1, 256)]).F 1 ≠ 0 ∧
    0x1D90_0000#32 &&& 0xFC0FFFFF#32 = 0x1C000000#32 ∧ State.reset.F (regAt 0x1D90_0000#32 20) = 0 := by decide

theorem witness_LagcWritesTheBasisCoefficientOrRaisesDupx :
    (withF [(0, 0), (1, 256)]).F 0 ≠ (withF [(0, 0), (1, 256)]).F 1 ∧
    0x3202_0000#32 &&& 0xFC01FFFF#32 = 0x30000000#32 ∧
    State.reset.F (regAt 0x3202_0000#32 20) = State.reset.F (regAt 0x3202_0000#32 17) := by decide

theorem witness_BavgpAveragesBytesOrRaisesRange :
    (∀ r ∈ [(0 : Reg), 1, 2, 3], ((withF [(0, 255), (1, 255), (2, 255), (3, 255)]).F r).val ≤ 255) ∧
    0x4602_9800#32 &&& 0xFC0007FF#32 = 0x44000000#32 ∧
    255 < ((withF [(0, 256)]).F (regAt 0x4602_9800#32 20)).val ∧
    255 < ((withF [(1, 256)]).F (regAt 0x4602_9800#32 17)).val ∧
    255 < ((withF [(2, 256)]).F (regAt 0x4602_9800#32 14)).val ∧
    255 < ((withF [(3, 256)]).F (regAt 0x4602_9800#32 11)).val := by decide

theorem witness_SadaccAccumulatesOrRaisesRange :
    ((withF [(1, 255)]).F 1).val ≤ 255 ∧ ((withF [(1, 255)]).F 2).val ≤ 255 ∧
    0x5014_0000#32 &&& 0xFF81FFFF#32 = 0x50000000#32 ∧
    255 < ((withF [(1, 256)]).F (regAt 0x5014_0000#32 20)).val ∧
    255 < ((withF [(2, 256)]).F (regAt 0x5014_0000#32 17)).val := by decide

/-- A consistent record without an error and one with an error, and a step from each. -/
theorem witness_StepKeepsTheErrorRecordConsistent :
    ErrorRecordConsistent (withEvents [hostCommand 0x0C00_0000#32]) ∧
    nextHas (step (withEvents [hostCommand 0x0C00_0000#32])) (fun t => t.err) = true ∧
    ErrorRecordConsistent ((withEvents [hostWriteAt 0x08 1#32]).recordError .dupx 7#32) ∧
    nextHas (step ((withEvents [hostWriteAt 0x08 1#32]).recordError .dupx 7#32)) (fun t => !t.err) = true := by
  unfold ErrorRecordConsistent; decide

/-- With an error recorded: another erring command, and a STATUS write without bit 0. -/
theorem witness_OnlyStatusWriteOrResetClearsAnError :
    (∃ t, step ((withEvents [hostCommand 0x0C00_0000#32]).recordError .dupx 7#32) = .next t) ∧
    (∃ t, step ((withEvents [hostWriteAt 0x08 6#32]).recordError .dupx 7#32) = .next t) ∧
    ((withEvents [hostWriteAt 0x08 6#32]).recordError .dupx 7#32).err = true ∧
    ¬ResetEvent (hostCommand 0x0C00_0000#32) ∧ ¬ResetEvent (hostWriteAt 0x08 6#32) ∧ (6#32).getLsbD 0 = false :=
  ⟨⟨_, rfl⟩, ⟨_, rfl⟩, by decide, by simp [ResetEvent, hostCommand, hostWriteAt], by simp [ResetEvent, hostWriteAt],
    by decide⟩

/-- The events that change the clamp warning: a BCLMP of 256, and the writes of STATUS, CLAMPCNT and CTRL. -/
theorem witness_ClampWarningComesOnlyFromBclmp :
    nextHas (step ((withF [(6, 256)]).setPending [hostCommand 0x3BE0_0000#32])) (fun t => t.warnClamp) = true ∧
    nextHas (step ((withEvents [hostWriteAt 0x08 2#32]).warnClampEvent)) (fun t => !t.warnClamp) = true ∧
    nextHas (step (withEvents [hostWriteAt 0x18 9#32])) (fun t => t.clampCnt == 9#32) = true ∧
    nextHas (step ((withEvents [hostWriteAt 0x04 1#32]).warnClampEvent)) (fun t => t.clampCnt == 0#32) = true := by decide

/-- The events that change ACC or ACC_OVF. -/
theorem witness_AccumulatorChangesOnlyByItsCommandsAndWrites :
    nextHas (step (((withF [(1, 255), (2, 0)]).setAcc 0xFFFF_FF01#32).setPending [hostCommand 0x5014_0000#32]))
      (fun t => t.acc == 0#32 && t.accOvf) = true ∧
    nextHas (step ((withEvents [hostCommand 0x5400_0000#32]).setAcc 5#32)) (fun t => t.acc == 0#32) = true ∧
    nextHas (step (withEvents [hostWriteAt 0x10 5#32])) (fun t => t.acc == 5#32) = true ∧
    nextHas (step ((withEvents [hostWriteAt 0x08 4#32]).accumulate (2 ^ 32))) (fun t => !t.accOvf) = true := by decide

/-- One event of each kind that a field register or LASTCMD answers to; the word of LDI F7 names F7 at bits 25:23. -/
theorem witness_FieldRegistersAndLastCmd :
    nextHas (step (withEvents [hostCommand 0x0780_0100#32])) (fun t => t.F 7 == 256 && t.lastCmd == 0x0780_0100#32) = true ∧
    nextHas (step ((withF [(7, 3)]).setPending [.assertReset])) (fun t => t.F 7 == 0 && t.resetLine) = true ∧
    nextHas (step (withEvents [hostWriteAt 0x20 5#32])) (fun t => t.F 0 == 0 && t.lastCmd == 0#32) = true ∧
    regAt 0x0780_0100#32 23 = 7 ∧ (Instr.ldi 7 256).command ∈ fieldWriters := by decide

/-- Two states that differ in everything but the field registers. -/
theorem witness_CommandResultsDependOnOperandsAlone :
    SameFields State.reset ((State.reset.recordError .dupx 7#32).setAcc 5#32) ∧ State.reset.err = false ∧
    State.reset.acc = (State.reset.setClampCnt 1#32).acc := by unfold SameFields; decide

theorem witness_EachCommandRaisesOnlyItsOwnError :
    onlyError (.ldi 0 0) = some .range ∧ onlyError (.finv 0 0) = some .domain ∧ onlyError (.lagc 0 0 1) = some .dupx := by
  decide

/-- A command of each kind of effect. -/
theorem witness_CommandWithAnEffectRecordsNoError :
    nextHas (exec (.ldi 0 5) State.reset) (fun t => t.F 0 != State.reset.F 0) = true ∧
    nextHas (exec .accclr (State.reset.setAcc 5#32)) (fun t => t.acc == 0#32) = true ∧
    nextHas (exec (.bclmp 0 1) (withF [(1, 256)])) (fun t => t.clampCnt == 1#32 && t.warnClamp) = true ∧
    nextHas (exec (.sadacc 0 1) ((withF [(1, 1)]).setAcc 0xFFFF_FFFF#32)) (fun t => t.accOvf) = true := by decide

theorem witness_FieldLawsHold :
    (1 : GF) ≠ 0 ∧ (256 : GF) ≠ 0 ∧ State.reset.F 1 = 0 ∧ State.reset.err = false := by decide

theorem witness_LagrangeCoefficientsOfTheSharePairs : (1 : Nat) ∈ [1, 2, 3] ∧ 3 ∈ [1, 2, 3] ∧ 1 ≠ 3 := by decide

theorem witness_InterpolationRecoversTheConstantTerm :
    (withF [(0, 255), (1, 256), (2, 1), (3, 2)]).resetLine = false ∧
    (withF [(0, 255), (1, 256), (2, 1), (3, 2)]).F 2 ≠ (withF [(0, 255), (1, 256), (2, 1), (3, 2)]).F 3 ∧
    ((withF [(0, 255), (1, 256), (2, 1), (3, 2)]).F 0).val ≤ 255 := by decide

theorem witness_AverageOfSharesIsAShareOfTheAverage : (255 : GF).val ≤ 255 ∧ (0 : GF).val ≤ 255 := by decide

theorem witness_AveragesIgnoreOperandOrder : [(3 : Reg), 2, 1, 0].Perm [0, 1, 2, 3] := by decide

theorem witness_OneShareRevealsNothing :
    (255 : GF).val ≤ 255 ∧ (3 : GF) = 3 ∧ 1 ≤ (1 : GF).val ∧ (255 : GF).val ≤ 255 := by decide

theorem witness_GenerateStoresTheTruncatedShareValues :
    State.reset.resetLine = false ∧ (1 ≠ 2 ∨ 3 ≠ 3) ∧ (2 ≠ 2 ∨ 4 ≠ 3) := by decide

theorem witness_ReconstructInterpolatesAndClamps :
    State.reset.resetLine = false ∧ [5#8].length = [7#8].length ∧ (1 : Nat) ≠ 3 ∧ 1 ≤ 3 ∧
    (∀ x1 ys1 x2 ys2, [(1, [5#8]), (4, [7#8])] = [(x1, ys1), (x2, ys2)] →
      ys1.length ≠ ys2.length ∨ x1 = x2 ∨ ¬(1 ≤ x1 ∧ x1 ≤ 3) ∨ ¬(1 ≤ x2 ∧ x2 ≤ 3)) ∧
    ∀ x1 ys1 x2 ys2, ([] : List (Nat × List Byte)) = [(x1, ys1), (x2, ys2)] →
      ys1.length ≠ ys2.length ∨ x1 = x2 ∨ ¬(1 ≤ x1 ∧ x1 ≤ 3) ∨ ¬(1 ≤ x2 ∧ x2 ≤ 3) := by
  refine ⟨rfl, rfl, by decide, by decide, ?_, by simp⟩
  intro x1 ys1 x2 ys2 h
  simp only [List.cons.injEq, Prod.mk.injEq] at h
  omega

/-- The clamped position of P4: the stored bytes 0 and 1 at x = 1 and 2 interpolate to 256. -/
theorem witness_reconstruct_clamps :
    [0#8].length = [1#8].length ∧ (List.zipWith (rawValue 1 2) [0#8] [1#8]).count 256 = 1 := by decide

/-- The lost share of P4: s = 254 and a1 = 2 give 256 at x = 1. -/
theorem witness_roundTrip_lost_share : shareValue 254#8 2 1 = 256 ∧ shareValue 254#8 2 2 = 1 := by decide

/-- E5's byte 128 with coefficient 5 loses no share at 1 and 3. -/
theorem witness_RoundTripIsExactUnlessAShareWasLost :
    State.reset.resetLine = false ∧ (1 : Nat) ≠ 3 ∧
    ∀ (i : Nat) (b : Byte), ([128#8] : List Byte)[i]? = some b → shareValue b 5 1 ≠ 256 ∧ shareValue b 5 3 ≠ 256 := by
  refine ⟨rfl, by decide, fun i b h => ?_⟩
  have hb : b = 128#8 := by simpa using List.mem_of_getElem? h
  subst hb; decide

theorem witness_DownscalesAverageEveryBlock :
    RasterOk ⟨2, 2, 24, 6, 3⟩ (List.replicate 12 200#8) ∧ RasterOk ⟨0, 0, 24, 0, 0⟩ [] := by
  unfold RasterOk; decide

/-- A raster of each unfit kind: depth, width, height, payload one byte short. -/
theorem witness_downscale_refusals :
    (⟨2, 2, 32, 6, 3⟩ : RasterShape).bitsPerPixel ≠ 24 ∧ (⟨3, 2, 24, 9, 3⟩ : RasterShape).width % 2 = 1 ∧
    (⟨2, 1, 24, 6, 3⟩ : RasterShape).height % 2 = 1 ∧
    (List.replicate 11 200#8).length < (⟨2, 2, 24, 6, 3⟩ : RasterShape).height * (⟨2, 2, 24, 6, 3⟩ : RasterShape).stride := by
  decide

theorem witness_SaeReturnsTheExactSum : State.reset.resetLine = false ∧ ((1 : Nat) ≠ 2 ∨ (1 : Nat) ≠ 1) := by decide

end Sys2Proof.Tests
end

section
/-! What one event, and so one step, can do to the unit's registers, and the statements about what changes each register
(spec 10_state.md). -/

namespace Sys2Proof.Proofs

open Sys2Proof.Machine Sys2Proof.Safety

/-! ### Which events are equal -/

@[simp] theorem hostWriteAt_inj {off off' : Nat} {w w' : Word} :
    hostWriteAt off w = hostWriteAt off' w' ↔ off = off' ∧ w = w' := by
  simp [hostWriteAt]

@[simp] theorem hostReadAt_ne_hostWriteAt {off off' : Nat} {w : Word} : hostReadAt off ≠ hostWriteAt off' w := by
  simp [hostReadAt, hostWriteAt]

@[simp] theorem assertReset_ne_hostWriteAt {off : Nat} {w : Word} : BusEvent.assertReset ≠ hostWriteAt off w :=
  BusEvent.noConfusion

@[simp] theorem releaseReset_ne_hostWriteAt {off : Nat} {w : Word} : BusEvent.releaseReset ≠ hostWriteAt off w :=
  BusEvent.noConfusion

@[simp] theorem resetEvent_assertReset : ResetEvent .assertReset := .inl rfl

@[simp] theorem not_resetEvent_releaseReset : ¬ResetEvent .releaseReset := by simp [ResetEvent]

@[simp] theorem not_resetEvent_hostReadAt (off : Nat) : ¬ResetEvent (hostReadAt off) := by
  simp [ResetEvent, hostReadAt, hostWriteAt]

@[simp] theorem resetEvent_hostWriteAt_iff {off : Nat} {w : Word} :
    ResetEvent (hostWriteAt off w) ↔ off = 0x04 ∧ w.getLsbD 0 = true := by
  constructor
  · rintro (h | ⟨w', h, hw⟩)
    · exact absurd h.symm assertReset_ne_hostWriteAt
    · obtain ⟨rfl, rfl⟩ := hostWriteAt_inj.1 h
      exact ⟨rfl, hw⟩
  · rintro ⟨rfl, hw⟩
    exact .inr ⟨w, rfl, hw⟩

/-! ### The effect of one event -/

/-- Everything one event can do in the state s, by its kind; a write of CMD by what its word does. -/
inductive EventEffect (s : State) : BusEvent → State → Prop where
  | assertReset : EventEffect s .assertReset (s.resetUnit.setResetLine true)
  | releaseReset : EventEffect s .releaseReset (s.setResetLine false)
  | read (off : Nat) : EventEffect s (hostReadAt off) (s.logRead (busRead off s))
  /-- A write that the unit ignores: neither a command nor a reset. -/
  | ignoredWrite (off : Nat) (w : Word) (hcmd : off ≠ 0x0C) (hreset : ¬ResetEvent (hostWriteAt off w)) :
      EventEffect s (hostWriteAt off w) s
  | ctrlReset (w : Word) (hw : w.getLsbD 0 = true) : EventEffect s (hostWriteAt 0x04 w) s.resetUnit
  | statusWrite (w : Word) : EventEffect s (hostWriteAt 0x08 w) (statusWrite w s)
  | accWrite (w : Word) : EventEffect s (hostWriteAt 0x10 w) (s.setAcc w)
  | clampCntWrite (w : Word) : EventEffect s (hostWriteAt 0x18 w) (s.setClampCnt w)
  | nop (w : Word) : EventEffect s (hostCommand w) (s.setLastCmd w)
  | fieldWrite (w : Word) (i : Instr) (rd : Reg) (v : GF) (hd : decode w = .command i)
      (hrd : destination i = some rd) : EventEffect s (hostCommand w) ((s.setLastCmd w).setF rd v)
  | clamp (w : Word) (rd rs1 : Reg) (hd : decode w = .command (.bclmp rd rs1)) (hv : (s.F rs1).val = 256) :
      EventEffect s (hostCommand w) ((s.setLastCmd w).setF rd 255).warnClampEvent
  | accumulate (w : Word) (rs1 rs2 : Reg) (hd : decode w = .command (.sadacc rs1 rs2)) (h1 : (s.F rs1).val ≤ 255)
      (h2 : (s.F rs2).val ≤ 255) :
      EventEffect s (hostCommand w) ((s.setLastCmd w).accumulate (absDiff (s.F rs1) (s.F rs2)))
  | accClear (w : Word) (hd : decode w = .command .accclr) :
      EventEffect s (hostCommand w) ((s.setLastCmd w).setAcc 0#32)
  | error (w : Word) (c : ErrCode) (cmd : Word) (hc : c ≠ .none) :
      EventEffect s (hostCommand w) ((s.setLastCmd w).recordError c cmd)

theorem commandWrite_effect {s t : State} {w : Word} (h : commandWrite w s = .next t) :
    EventEffect s (hostCommand w) t := by
  obtain ⟨why, -, rfl⟩ | ⟨i, hd, hi⟩ := commandWrite_cases h
  · exact .error w .illegal w (by decide)
  · obtain ⟨-, rfl⟩ | ⟨rd, v, hrd, rfl⟩ | ⟨rd, rs1, rfl, hv, rfl⟩ | ⟨rs1, rs2, rfl, h1, h2, rfl⟩ | ⟨rfl, rfl⟩ |
      ⟨c, hc, rfl⟩ := exec_cases hi
    · exact .nop w
    · exact .fieldWrite w i rd v hd hrd
    · exact .clamp w rd rs1 hd hv
    · exact .accumulate w rs1 rs2 hd h1 h2
    · exact .accClear w hd
    · exact .error w c _ hc

theorem busWrite_effect {s t : State} {off : Nat} {w : Word} (h : busWrite off w s = .next t) :
    EventEffect s (hostWriteAt off w) t := by
  by_cases hcmd : off = 0x0C
  · subst hcmd
    exact commandWrite_effect h
  by_cases hreset : ResetEvent (hostWriteAt off w)
  · obtain ⟨rfl, hw⟩ := resetEvent_hostWriteAt_iff.1 hreset
    obtain rfl : s.resetUnit = t := by simpa [busWrite, ctrlWrite, hw] using h
    exact .ctrlReset w hw
  obtain rfl | ⟨rfl, hw, -⟩ | ⟨rfl, rfl⟩ | ⟨rfl, -⟩ | ⟨rfl, rfl⟩ | ⟨rfl, rfl⟩ := busWrite_cases h
  · exact .ignoredWrite off w hcmd hreset
  · exact absurd (resetEvent_hostWriteAt_iff.2 ⟨rfl, hw⟩) hreset
  · exact .statusWrite w
  · exact absurd rfl hcmd
  · exact .accWrite w
  · exact .clampCntWrite w

theorem takeEvent_effect {s t : State} {e : BusEvent} (h : takeEvent e s = .next t) : EventEffect s e t := by
  obtain ⟨rfl, rfl⟩ | ⟨rfl, rfl⟩ | ⟨off, rfl, -, -, -, rfl⟩ | ⟨off, w, rfl, -, -, -, hw⟩ := takeEvent_cases h
  · exact .assertReset
  · exact .releaseReset
  · exact .read off
  · exact busWrite_effect hw

/-- What a step does is what its oldest pending event does once it is off the queue. -/
theorem step_effect {s t : State} {e : BusEvent} {rest : List BusEvent} (hp : s.pending = e :: rest)
    (h : step s = .next t) : EventEffect (s.setPending rest) e t :=
  takeEvent_effect (step_pending hp ▸ h)

/-! ### The error record -/

/-- ERR, ERRCODE and ERRINFO unchanged. -/
def SameErrorRecord (s t : State) : Prop := t.err = s.err ∧ t.errCode = s.errCode ∧ t.errInfo = s.errInfo

/-- ERR, ERRCODE and ERRINFO all 0. -/
def ErrorRecordClear (t : State) : Prop := t.err = false ∧ t.errCode = .none ∧ t.errInfo = 0#32

/-- The events that clear a recorded error: a reset, and a STATUS write with bit 0 (R26). -/
def ClearsError (e : BusEvent) : Prop := ResetEvent e ∨ ∃ w : Word, e = hostWriteAt 0x08 w ∧ w.getLsbD 0 = true

theorem statusWrite_errorRecord (w : Word) (s : State) :
    (w.getLsbD 0 = true ∧ ErrorRecordClear (statusWrite w s)) ∨ SameErrorRecord s (statusWrite w s) := by
  obtain ⟨herr, hcode, hinfo, -⟩ := statusWrite_fields w s
  cases hw : w.getLsbD 0 with
  | true =>
    rw [hw] at herr hcode hinfo
    exact .inl ⟨rfl, by simpa using herr, hcode, hinfo⟩
  | false =>
    rw [hw] at herr hcode hinfo
    exact .inr ⟨by simpa using herr, hcode, hinfo⟩

/-- An event keeps the error record, clears it, or records one error of a command (R26, R214). -/
theorem EventEffect.errorRecord_cases {s t : State} {e : BusEvent} (h : EventEffect s e t) :
    SameErrorRecord s t ∨ (ClearsError e ∧ ErrorRecordClear t) ∨
    ∃ c cmd, c ≠ ErrCode.none ∧ SameErrorRecord (s.recordError c cmd) t := by
  cases h with
  | assertReset => exact .inr (.inl ⟨.inl resetEvent_assertReset, rfl, rfl, rfl⟩)
  | ctrlReset w hw => exact .inr (.inl ⟨.inl (resetEvent_hostWriteAt_iff.2 ⟨rfl, hw⟩), rfl, rfl, rfl⟩)
  | statusWrite w =>
    obtain ⟨hw, hclear⟩ | hsame := statusWrite_errorRecord w s
    · exact .inr (.inl ⟨.inr ⟨w, rfl, hw⟩, hclear⟩)
    · exact .inl hsame
  | error w c cmd hc => exact .inr (.inr ⟨c, cmd, hc, rfl, rfl, rfl⟩)
  | _ => exact .inl ⟨rfl, rfl, rfl⟩

theorem SameErrorRecord.consistent {s t : State} (h : SameErrorRecord s t) (hs : ErrorRecordConsistent s) :
    ErrorRecordConsistent t := by
  obtain ⟨herr, hcode, hinfo⟩ := h
  simpa only [ErrorRecordConsistent, herr, hcode, hinfo] using hs

theorem ErrorRecordClear.consistent {t : State} (h : ErrorRecordClear t) : ErrorRecordConsistent t := by
  obtain ⟨herr, hcode, hinfo⟩ := h
  simp [ErrorRecordConsistent, herr, hcode, hinfo]

theorem recordError_consistent {s : State} {c : ErrCode} (hc : c ≠ .none) (cmd : Word)
    (hs : ErrorRecordConsistent s) : ErrorRecordConsistent (s.recordError c cmd) := by
  cases hes : s.err with
  | true => rwa [State.recordError_later hes]
  | false =>
    obtain ⟨hcode, -⟩ := State.recordError_first hes c cmd
    exact ⟨fun h => by simp at h, fun _ => by rwa [hcode]⟩

theorem EventEffect.consistent {s t : State} {e : BusEvent} (h : EventEffect s e t) (hs : ErrorRecordConsistent s) :
    ErrorRecordConsistent t := by
  obtain hsame | ⟨-, hclear⟩ | ⟨c, cmd, hc, hrec⟩ := h.errorRecord_cases
  · exact hsame.consistent hs
  · exact hclear.consistent
  · exact hrec.consistent (recordError_consistent hc cmd hs)

/-- Settles O36: an event keeps the error record, clears it whole, or records an error's code with the word. -/
theorem stepKeepsTheErrorRecordConsistent : Obligations.StepKeepsTheErrorRecordConsistent := by
  intro s t hs h
  obtain ⟨-, rfl⟩ | ⟨e, rest, -, he⟩ := step_cases h
  · exact hs
  · exact (takeEvent_effect he).consistent hs

/-- Settles O38: of the three things an event can do to the error record, clearing needs one of the two excluded events,
and recording an error changes nothing while ERR = 1. -/
theorem onlyStatusWriteOrResetClearsAnError : Obligations.OnlyStatusWriteOrResetClearsAnError := by
  intro s t e rest hp h herr hreset hstatus
  obtain hsame | ⟨hr | ⟨w, rfl, hw⟩, -⟩ | ⟨c, cmd, -, hrec⟩ := (step_effect hp h).errorRecord_cases
  · obtain ⟨h1, h2, h3⟩ := hsame
    exact ⟨h1.trans herr, h2, h3⟩
  · exact absurd hr hreset
  · exact absurd ((hstatus w rfl).symm.trans hw) Bool.false_ne_true
  · rw [State.recordError_later (s := s.setPending rest) herr] at hrec
    obtain ⟨h1, h2, h3⟩ := hrec
    exact ⟨h1.trans herr, h2, h3⟩

/-! ### The clamp warning -/

theorem exec_bclmp_clamps {s : State} {rs1 : Reg} (rd : Reg) (h : 255 < (s.F rs1).val) :
    exec (.bclmp rd rs1) s = .next (s.setF rd 255).warnClampEvent := by
  have hb : ¬isByte (s.F rs1) = true := fun hb => absurd ((isByte_iff _).1 hb) (by omega)
  simp [exec, execBclmp, hb]

/-- What an event does to WARN_CLAMP and CLAMPCNT (R27, R31). -/
theorem EventEffect.clamp_cases {s t : State} {e : BusEvent} (h : EventEffect s e t) :
    (t.warnClamp = s.warnClamp ∧ t.clampCnt = s.clampCnt) ∨
    (ResetEvent e ∧ t.warnClamp = false ∧ t.clampCnt = 0#32) ∨
    (∃ w : Word, e = hostWriteAt 0x08 w ∧ w.getLsbD 1 = true ∧ t.warnClamp = false ∧ t.clampCnt = s.clampCnt) ∨
    (∃ w : Word, e = hostWriteAt 0x18 w ∧ t.warnClamp = s.warnClamp ∧ t.clampCnt = w) ∨
    (∃ (w : Word) (rd rs1 : Reg), e = hostCommand w ∧ decode w = .command (.bclmp rd rs1) ∧ (s.F rs1).val = 256 ∧
      t.warnClamp = true ∧ t.clampCnt.toNat = min (s.clampCnt.toNat + 1) (2 ^ 32 - 1)) := by
  cases h with
  | assertReset => exact .inr (.inl ⟨resetEvent_assertReset, rfl, rfl⟩)
  | ctrlReset w hw => exact .inr (.inl ⟨resetEvent_hostWriteAt_iff.2 ⟨rfl, hw⟩, rfl, rfl⟩)
  | statusWrite w =>
    obtain ⟨-, -, -, hwarn, -, -, -, hcnt, -⟩ := statusWrite_fields w s
    cases hw : w.getLsbD 1 with
    | true => exact .inr (.inr (.inl ⟨w, rfl, hw, by simp [hwarn, hw], hcnt⟩))
    | false =>
      rw [hw] at hwarn
      exact .inl ⟨by simpa using hwarn, hcnt⟩
  | clampCntWrite w => exact .inr (.inr (.inr (.inl ⟨w, rfl, rfl, rfl⟩)))
  | clamp w rd rs1 hd hv =>
    exact .inr (.inr (.inr (.inr ⟨w, rd, rs1, rfl, hd, hv, rfl, saturatingSucc_toNat s.clampCnt⟩)))
  | _ => exact .inl ⟨rfl, rfl⟩

/-- Settles O39: BCLMP of a value over 255 runs to its clamp event, and no other effect of an event touches the warning
or its count but those the statement lists. -/
theorem clampWarningComesOnlyFromBclmp : Obligations.ClampWarningComesOnlyFromBclmp := by
  constructor
  · intro s w rd rs1 rest hr hd hv
    refine ⟨(((s.setPending rest).setLastCmd w).setF rd 255).warnClampEvent, ?_,
      State.warnClamp_warnClampEvent _, saturatingSucc_toNat s.clampCnt⟩
    rw [step_pending rfl, takeEvent_hostCommand w (by exact hr), commandWrite_command hd]
    exact exec_bclmp_clamps rd hv
  · intro s t e rest hp h
    exact (step_effect hp h).clamp_cases

/-! ### The accumulator -/

/-- ACCCLR has one word (R172). -/
theorem eq_of_decode_accclr {w : Word} (h : decode w = .command .accclr) : w = 0x54000000#32 := by
  obtain ⟨c, hsel, hi⟩ := decode_command_iff.1 h
  obtain rfl : Command.accclr = c := (congrArg Instr.command hi).trans (command_instr c w)
  have hmask : w &&& BitVec.allOnes 32 = 0x54000000#32 := hsel
  rwa [BitVec.and_allOnes] at hmask

/-- What an event does to ACC and ACC_OVF (R24, R28). -/
theorem EventEffect.acc_cases {s t : State} {e : BusEvent} (h : EventEffect s e t) :
    (t.acc = s.acc ∧ t.accOvf = s.accOvf) ∨
    (ResetEvent e ∧ t.acc = 0#32 ∧ t.accOvf = false) ∨
    (∃ w : Word, e = hostWriteAt 0x08 w ∧ w.getLsbD 2 = true ∧ t.acc = s.acc ∧ t.accOvf = false) ∨
    (∃ w : Word, e = hostWriteAt 0x10 w ∧ t.acc = w ∧ t.accOvf = s.accOvf) ∨
    (e = hostCommand 0x54000000#32 ∧ t.acc = 0#32 ∧ t.accOvf = s.accOvf) ∨
    (∃ (w : Word) (rs1 rs2 : Reg) (d : Nat), e = hostCommand w ∧ decode w = .command (.sadacc rs1 rs2) ∧
      (s.F rs1).val ≤ 255 ∧ (s.F rs2).val ≤ 255 ∧ d = absDiff (s.F rs1) (s.F rs2) ∧
      t.acc.toNat = (s.acc.toNat + d) % 2 ^ 32 ∧ t.accOvf = (s.accOvf || accWraps s.acc d)) := by
  cases h with
  | assertReset => exact .inr (.inl ⟨resetEvent_assertReset, rfl, rfl⟩)
  | ctrlReset w hw => exact .inr (.inl ⟨resetEvent_hostWriteAt_iff.2 ⟨rfl, hw⟩, rfl, rfl⟩)
  | statusWrite w =>
    obtain ⟨-, -, -, -, hovf, -, hacc, -, -⟩ := statusWrite_fields w s
    cases hw : w.getLsbD 2 with
    | true => exact .inr (.inr (.inl ⟨w, rfl, hw, hacc, by simp [hovf, hw]⟩))
    | false =>
      rw [hw] at hovf
      exact .inl ⟨hacc, by simpa using hovf⟩
  | accWrite w => exact .inr (.inr (.inr (.inl ⟨w, rfl, rfl, rfl⟩)))
  | accClear w hd =>
    obtain rfl := eq_of_decode_accclr hd
    exact .inr (.inr (.inr (.inr (.inl ⟨rfl, rfl, rfl⟩))))
  | accumulate w rs1 rs2 hd h1 h2 =>
    exact .inr (.inr (.inr (.inr (.inr
      ⟨w, rs1, rs2, _, rfl, hd, h1, h2, rfl, State.accumulate_toNat (s.setLastCmd w) _, rfl⟩))))
  | _ => exact .inl ⟨rfl, rfl⟩

/-- Settles O40: SADACC of two bytes, ACCCLR, the two writes and a reset are the only effects that touch ACC or
ACC_OVF. -/
theorem accumulatorChangesOnlyByItsCommandsAndWrites : Obligations.AccumulatorChangesOnlyByItsCommandsAndWrites := by
  intro s t e rest hp h
  exact (step_effect hp h).acc_cases

/-! ### The field registers -/

/-- An event changes no field register, makes all of them 0, or is a command that changes its destination alone (R22,
R100 b). -/
theorem EventEffect.fields_cases {s t : State} {e : BusEvent} (h : EventEffect s e t) :
    SameFields s t ∨ (ResetEvent e ∧ ∀ r, t.F r = 0) ∨
    ∃ (w : Word) (i : Instr) (rd : Reg), e = hostCommand w ∧ decode w = .command i ∧ destination i = some rd ∧
      ∀ r, r ≠ rd → t.F r = s.F r := by
  cases h with
  | assertReset => exact .inr (.inl ⟨resetEvent_assertReset, State.F_resetUnit s⟩)
  | ctrlReset w hw => exact .inr (.inl ⟨resetEvent_hostWriteAt_iff.2 ⟨rfl, hw⟩, State.F_resetUnit s⟩)
  | statusWrite w =>
    obtain ⟨-, -, -, -, -, hF, -⟩ := statusWrite_fields w s
    exact .inl hF
  | fieldWrite w i rd v hd hrd =>
    exact .inr (.inr ⟨w, i, rd, rfl, hd, hrd, fun r hr => State.F_setF_ne (s.setLastCmd w) v hr⟩)
  | clamp w rd rs1 hd hv =>
    exact .inr (.inr ⟨w, _, rd, rfl, hd, rfl, fun r hr => State.F_setF_ne (s.setLastCmd w) 255 hr⟩)
  | _ => exact .inl fun r => rfl

/-- Settles O41: a command that changes a field register is one of those R22 lists and changes the register its word
names at bits 25:23. -/
theorem fieldRegistersChangeOnlyByOneCommandOrReset : Obligations.FieldRegistersChangeOnlyByOneCommandOrReset := by
  intro s t e rest hp h
  obtain hsame | hreset | ⟨w, i, rd, he, hd, hrd, hF⟩ := (step_effect hp h).fields_cases
  · exact .inl hsame
  · exact .inr (.inl hreset)
  · obtain ⟨hmem, rfl⟩ := destination_of_decode hd hrd
    exact .inr (.inr ⟨w, i, he, hd, hmem, hF⟩)

/-! ### LASTCMD -/

/-- What an event does to LASTCMD: the three cases exclude each other (R32). -/
theorem EventEffect.lastCmd_cases {s t : State} {e : BusEvent} (h : EventEffect s e t) :
    (∃ w, e = hostCommand w ∧ t.lastCmd = w) ∨ (ResetEvent e ∧ t.lastCmd = 0#32) ∨
    ((∀ w, e ≠ hostCommand w) ∧ ¬ResetEvent e ∧ t.lastCmd = s.lastCmd) := by
  cases h with
  | assertReset => exact .inr (.inl ⟨resetEvent_assertReset, rfl⟩)
  | ctrlReset w hw => exact .inr (.inl ⟨resetEvent_hostWriteAt_iff.2 ⟨rfl, hw⟩, rfl⟩)
  | releaseReset => exact .inr (.inr ⟨by simp [hostCommand], by simp, rfl⟩)
  | read off => exact .inr (.inr ⟨by simp [hostCommand], by simp, rfl⟩)
  | ignoredWrite off w hcmd hreset => exact .inr (.inr ⟨by simp [hostCommand, hcmd], hreset, rfl⟩)
  | statusWrite w =>
    obtain ⟨-, -, -, -, -, -, -, -, hlast⟩ := statusWrite_fields w s
    exact .inr (.inr ⟨by simp [hostCommand], by simp, hlast⟩)
  | accWrite w => exact .inr (.inr ⟨by simp [hostCommand], by simp, rfl⟩)
  | clampCntWrite w => exact .inr (.inr ⟨by simp [hostCommand], by simp, rfl⟩)
  | _ => exact .inl ⟨_, rfl, rfl⟩

/-- Settles O42: every effect of a write of CMD, the error's among them, leaves the word in LASTCMD. -/
theorem lastCmdHoldsTheLastWordWritten : Obligations.LastCmdHoldsTheLastWordWritten := by
  constructor
  · intro s t e rest hp h
    exact (step_effect hp h).lastCmd_cases
  · intro s
    rfl

/-! ### What a command's result depends on -/

/-- What a command does to the state, with its operands already read. -/
inductive CommandEffect where
  | keep
  | write (rd : Reg) (v : GF)
  | clamp (rd : Reg)
  | accumulate (d : Nat)
  | clearAcc
  | error (c : ErrCode) (cmd : Word)

/-- The state after a command's effect. -/
def CommandEffect.apply (s : State) : CommandEffect → State
  | .keep => s
  | .write rd v => s.setF rd v
  | .clamp rd => (s.setF rd 255).warnClampEvent
  | .accumulate d => s.accumulate d
  | .clearAcc => s.setAcc 0#32
  | .error c cmd => s.recordError c cmd

/-- A command completes with the same effect in any two states with the same field registers: the operands alone choose
it (R37, R100 d). -/
theorem exec_effect_of_sameFields (i : Instr) {s₁ s₂ : State} (h : SameFields s₁ s₂) :
    ∃ f : CommandEffect, exec i s₁ = .next (f.apply s₁) ∧ exec i s₂ = .next (f.apply s₂) := by
  cases i with
  | nop => exact ⟨.keep, rfl, rfl⟩
  | ldi rd n =>
    simp only [exec, execLdi]
    cases immediateElement n with
    | none => exact ⟨.error .range _, rfl, rfl⟩
    | some v => exact ⟨.write rd v, rfl, rfl⟩
  | mov rd rs1 => exact ⟨.write rd _, rfl, by simp only [exec, execMov, h _]; rfl⟩
  | fadd rd rs1 rs2 => exact ⟨.write rd _, rfl, by simp only [exec, execFadd, h _]; rfl⟩
  | fsub rd rs1 rs2 => exact ⟨.write rd _, rfl, by simp only [exec, execFsub, h _]; rfl⟩
  | fmul rd rs1 rs2 => exact ⟨.write rd _, rfl, by simp only [exec, execFmul, h _]; rfl⟩
  | finv rd rs1 =>
    simp only [exec, execFinv, h _]
    split
    · exact ⟨.error .domain _, rfl, rfl⟩
    · exact ⟨.write rd _, rfl, rfl⟩
  | peval rd rs1 rs2 rs3 => exact ⟨.write rd _, rfl, by simp only [exec, execPeval, h _]; rfl⟩
  | btrunc rd rs1 => exact ⟨.write rd _, rfl, by simp only [exec, execBtrunc, h _]; rfl⟩
  | lagc rd rs1 rs2 =>
    simp only [exec, execLagc, h _]
    split
    · exact ⟨.error .dupx _, rfl, rfl⟩
    · exact ⟨.write rd _, rfl, rfl⟩
  | lint rd rs1 rs2 rs3 rs4 => exact ⟨.write rd _, rfl, by simp only [exec, execLint, h _]; rfl⟩
  | bclmp rd rs1 =>
    simp only [exec, execBclmp, h _]
    split
    · exact ⟨.write rd _, rfl, rfl⟩
    · exact ⟨.clamp rd, rfl, rfl⟩
  | bavgf rd rs1 rs2 rs3 rs4 => exact ⟨.write rd _, rfl, by simp only [exec, execBavgf, h _]; rfl⟩
  | bavgp rd rs1 rs2 rs3 rs4 =>
    simp only [exec, execBavgp, h _]
    split
    · exact ⟨.write rd _, rfl, rfl⟩
    · exact ⟨.error .range _, rfl, rfl⟩
  | sadacc rs1 rs2 =>
    simp only [exec, execSadacc, h _]
    split
    · exact ⟨.accumulate _, rfl, rfl⟩
    · exact ⟨.error .range _, rfl, rfl⟩
  | accclr => exact ⟨.clearAcc, rfl, rfl⟩

theorem CommandEffect.sameFields_apply (f : CommandEffect) {s₁ s₂ : State} (h : SameFields s₁ s₂) :
    SameFields (f.apply s₁) (f.apply s₂) := by
  intro r
  cases f with
  | write rd v => simp [CommandEffect.apply, State.F_setF, h r]
  | clamp rd => simp [CommandEffect.apply, State.F_setF, h r]
  | _ => exact h r

theorem CommandEffect.acc_apply (f : CommandEffect) {s₁ s₂ : State} (h : s₁.acc = s₂.acc) :
    (f.apply s₁).acc = (f.apply s₂).acc := by
  cases f with
  | accumulate d => simp [CommandEffect.apply, h]
  | clearAcc => rfl
  | _ => exact h

/-- Without an error before, the error after a command is the one of its effect. -/
theorem CommandEffect.error_apply (f : CommandEffect) {s₁ s₂ : State} (h₁ : s₁.err = false) (h₂ : s₂.err = false) :
    (f.apply s₁).err = (f.apply s₂).err ∧
    ((f.apply s₁).err = true → (f.apply s₁).errCode = (f.apply s₂).errCode) := by
  cases f with
  | error c cmd => exact ⟨rfl, fun _ => by simp [CommandEffect.apply, h₁, h₂]⟩
  | _ => exact ⟨h₁.trans h₂.symm, fun he => absurd (h₁.symm.trans he) Bool.false_ne_true⟩

/-- Settles O43: both runs apply one effect, chosen by the field registers. -/
theorem commandResultsDependOnOperandsAlone : Obligations.CommandResultsDependOnOperandsAlone := by
  intro i s₁ s₂ h
  obtain ⟨f, hf₁, hf₂⟩ := exec_effect_of_sameFields i h
  exact ⟨_, _, hf₁, hf₂, f.sameFields_apply h, f.acc_apply, f.error_apply⟩

end Sys2Proof.Proofs
end

section
/-! What a step does with the host's accesses to the register window, and the statements about the window
(spec 20_memory.md). -/

namespace Sys2Proof.Proofs

open Sys2Proof.Machine Sys2Proof.Safety

/-! ### One step, one event -/

theorem step_setPending_cons (e : BusEvent) (rest : List BusEvent) (s : State) :
    step (s.setPending (e :: rest)) = takeEvent e (s.setPending rest) := rfl

/-- Settles O10, by induction on the events: a step takes the first of them, and what an event does, an end of the run
among it, does not depend on the queue behind it. -/
theorem stepsTakePendingEventsInIssueOrder : Obligations.StepsTakePendingEventsInIssueOrder := by
  intro s es rest
  change Host.Core.run core es.length (s.setPending (es ++ rest)) = takeEvents es (s.setPending rest)
  induction es generalizing s with
  | nil => rfl
  | cons e es ih =>
    have hstep : core.step (s.setPending (e :: (es ++ rest))) = mapNext (·.setPending (es ++ rest)) (takeEvent e s) :=
      takeEvent_setPending e s (es ++ rest)
    simp only [List.length_cons, List.cons_append, Host.Core.run, takeEvents, hstep, takeEvent_setPending e s rest]
    cases takeEvent e s with
    | next t => exact ih t
    | fault r => rfl
    | refused r => rfl

section HostAccess

variable {s : State} {off : Nat} (rest : List BusEvent) (hr : s.resetLine = false)
include hr

theorem step_hostWriteAt (w : Word) (ha : off % 4 = 0) (hw : off < 0x100) :
    step (s.setPending (hostWriteAt off w :: rest)) = busWrite off w (s.setPending rest) :=
  takeEvent_hostWriteAt w (s := s.setPending rest) hr ha hw

theorem step_hostReadAt (ha : off % 4 = 0) (hw : off < 0x100) :
    step (s.setPending (hostReadAt off :: rest)) = .next ((s.setPending rest).logRead (busRead off s)) := by
  rw [← busRead_setPending off s rest]
  exact takeEvent_hostReadAt (s := s.setPending rest) hr ha hw

theorem step_hostCommand (w : Word) :
    step (s.setPending (hostCommand w :: rest)) = commandWrite w (s.setPending rest) :=
  takeEvent_hostCommand w (s := s.setPending rest) hr

end HostAccess

/-! ### The read column of the window -/

/-- The offsets of R51 that read 0 and ignore a write. -/
def ReservedOffset (off : Nat) : Prop := off = 0x1C ∨ 0x40 ≤ off

/-- An aligned offset is one of ID to CLAMPCNT, a field register's, or reserved (R51). -/
theorem alignedOffset_cases {off : Nat} (ha : off % 4 = 0) :
    off ∈ [0x00, 0x04, 0x08, 0x0C, 0x10, 0x14, 0x18] ∨ (∃ r : Reg, off = fieldOffset r) ∨ ReservedOffset off := by
  by_cases hfield : 0x20 ≤ off ∧ off < 0x40
  · exact .inr (.inl ⟨⟨(off - 0x20) / 4, by omega⟩, by simp only [fieldOffset]; omega⟩)
  · simp only [List.mem_cons, List.not_mem_nil, ReservedOffset]
    omega

theorem busRead_reserved {off : Nat} (h : ReservedOffset off) (s : State) : busRead off s = 0#32 := by
  unfold ReservedOffset at h
  unfold busRead
  split
  case h_16 => rfl
  all_goals omega

theorem windowNumber_reserved {off : Nat} (h : ReservedOffset off) (s : State) : windowNumber s off = 0 := by
  unfold ReservedOffset at h
  unfold windowNumber
  split_ifs <;> omega

theorem windowNumber_fieldOffset (r : Reg) (s : State) : windowNumber s (fieldOffset r) = (s.F r).val := by
  fin_cases r <;> rfl

/-- The STATUS word is the sum of its fields at their bit places (R25). -/
theorem statusWord_toNat (s : State) : s.statusWord.toNat = statusNumber s := by
  unfold State.statusWord statusNumber
  cases s.err <;> cases s.warnClamp <;> cases s.accOvf <;> cases s.errCode <;> rfl

/-- A read of any aligned offset returns the number R51 gives it. -/
theorem busRead_toNat {off : Nat} (ha : off % 4 = 0) (s : State) : (busRead off s).toNat = windowNumber s off := by
  obtain h | ⟨r, rfl⟩ | h := alignedOffset_cases ha
  · simp only [List.mem_cons, List.not_mem_nil, or_false] at h
    obtain rfl | rfl | rfl | rfl | rfl | rfl | rfl := h
    case inr.inr.inl => exact statusWord_toNat s
    all_goals rfl
  · rw [busRead_fieldOffset, windowNumber_fieldOffset, BitVec.toNat_ofNat]
    omega
  · rw [busRead_reserved h, windowNumber_reserved h]
    rfl

/-- Settles O11: the word read is the one at the offset, and a read only joins the record of reads. -/
theorem busReadReturnsTheRegisterAndChangesNothing : Obligations.BusReadReturnsTheRegisterAndChangesNothing :=
  fun s off rest hr ha hw => ⟨busRead off s, busRead_toNat ha s, step_hostReadAt rest hr ha hw⟩

/-! ### Writes -/

/-- A write to ID, ERRINFO, a field register or a reserved offset is ignored (R54, R58). -/
theorem busWrite_ignored {off : Nat} (h : off = 0x00 ∨ off = 0x14 ∨ off = 0x1C ∨ 0x20 ≤ off) (w : Word) (s : State) :
    busWrite off w s = .next s := by
  unfold busWrite
  split
  case h_6 => rfl
  all_goals omega

/-- Settles O12: each access is a step of the bus, where the write is ignored and the read gives 0. -/
theorem reservedAndReadOnlyOffsetsIgnoreWrites : Obligations.ReservedAndReadOnlyOffsetsIgnoreWrites := by
  intro s off w rest hr ha hw
  constructor
  · intro h
    exact (step_hostWriteAt rest hr w ha hw).trans (busWrite_ignored h w _)
  · intro h
    rw [← busRead_reserved h s]
    exact step_hostReadAt rest hr ha hw

theorem statusWrite_outside (w : Word) (s : State) : SameOutside s (statusWrite w s) := by
  unfold statusWrite
  cases w.getLsbD 0 <;> cases w.getLsbD 1 <;> cases w.getLsbD 2 <;> exact ⟨rfl, rfl, rfl⟩

/-- Settles O13: register by register, what a STATUS write leaves is what the statement lists. -/
theorem statusWriteClearsTheWrittenOnes : Obligations.StatusWriteClearsTheWrittenOnes := by
  intro s w rest hr
  refine (step_hostWriteAt rest hr w (by decide) (by decide)).trans (congrArg Host.Outcome.next ?_)
  obtain ⟨herr, hcode, hinfo, hwarn, hovf, hF, hacc, hcnt, hlast⟩ := statusWrite_fields w (s.setPending rest)
  obtain ⟨hline, hpending, hreads⟩ := statusWrite_outside w (s.setPending rest)
  exact State.ext_fields hF hacc herr hwarn hovf hcode hinfo hcnt hlast hline hpending hreads

/-- Settles O14: the step is the bus write, and the read returns what it stored. -/
theorem accAndClampCntTakeTheWrittenWord : Obligations.AccAndClampCntTakeTheWrittenWord :=
  fun _ w rest hr =>
    ⟨step_hostWriteAt rest hr w (off := 0x10) (by decide) (by decide),
      step_hostWriteAt rest hr w (off := 0x18) (by decide) (by decide), rfl, rfl⟩

theorem allRegistersZero_resetUnit (s : State) : AllRegistersZero s.resetUnit :=
  ⟨State.F_resetUnit s, rfl, rfl, rfl, rfl, rfl, rfl, rfl, rfl⟩

theorem ctrlWrite_of_bit0 {w : Word} (h : w.getLsbD 0 = true) (s : State) : ctrlWrite w s = s.resetUnit := if_pos h

theorem ctrlWrite_of_not_bit0 {w : Word} (h : w.getLsbD 0 = false) (s : State) : ctrlWrite w s = s :=
  if_neg (Bool.eq_false_iff.1 h)

/-- Settles O59: bit 0 alone chooses between the reset of the unit and the state as it was. -/
theorem ctrlWriteResetsTheUnitOrDoesNothing : Obligations.CtrlWriteResetsTheUnitOrDoesNothing := by
  intro s w
  constructor
  · intro h
    exact ⟨s.resetUnit, congrArg Host.Outcome.next (ctrlWrite_of_bit0 h s), allRegistersZero_resetUnit s, rfl⟩
  · intro h
    exact congrArg Host.Outcome.next (ctrlWrite_of_not_bit0 h s)

/-- Settles O9: the step is a command write, which decodes the word after LASTCMD has it. -/
theorem stepRunsTheWordWrittenToCmd : Obligations.StepRunsTheWordWrittenToCmd := by
  intro s w rest hr
  constructor
  · intro i hd
    exact (step_hostCommand rest hr w).trans (commandWrite_command hd)
  · intro why hd
    exact ⟨_, (step_hostCommand rest hr w).trans (commandWrite_illegal hd), onlyRecordsError_recordError _ .illegal w⟩

/-! ### Accesses outside the interface -/

/-- The accesses that are not refused: the host's, with the reset input released, 32 bits wide and aligned (R52, R227,
R243). -/
theorem accessRefusal_eq_none_iff {a : Access} {s : State} :
    accessRefusal a s = none ↔ a.master = .host ∧ s.resetLine = false ∧ a.width = .word ∧ a.off % 4 = 0 := by
  unfold accessRefusal
  split_ifs <;> simp_all

theorem access_refused {a : Access} {s : State} (h : accessRefusal a s ≠ none) : ∃ r, access a s = .refused r := by
  obtain ⟨r, hr⟩ := Option.ne_none_iff_exists'.1 h
  exact ⟨r, by simp [access, hr]⟩

/-- Settles O15: every access that is not refused is 32 bits wide and aligned. -/
theorem narrowOrMisalignedAccessIsRefused : Obligations.NarrowOrMisalignedAccessIsRefused := by
  intro s a rest hp h
  rw [step_pending hp]
  refine access_refused fun hnone => ?_
  obtain ⟨-, -, hwidth, halign⟩ := accessRefusal_eq_none_iff.1 hnone
  exact h.elim (· hwidth) (· halign)

/-! ### Byte lanes -/

theorem laneOf_toNat (w : Word) (j : Nat) : (laneOf w j).toNat = w.toNat / 2 ^ (8 * j) % 2 ^ 8 := by
  rw [laneOf, BitVec.extractLsb'_toNat, Nat.shiftRight_eq_div_pow]

/-- The byte at lane j of an aligned offset is that lane of the word there, whatever BASE is (R53). -/
theorem windowByte_lane {off j : Nat} (ha : off % 4 = 0) (hw : off < 0x100) (hj : j < 4) (s : State) :
    windowByte (Config.base + off + j) s = some (laneOf (busRead off s) j) := by
  have hoffset : windowOffset (Config.base + off + j) = some (off + j) := by
    unfold windowOffset
    rw [if_pos (by omega)]
    congr 1
    omega
  have hword : 4 * ((off + j) / 4) = off := by omega
  have hlane : (off + j) % 4 = j := by omega
  simp only [windowByte, hoffset, Option.map_some, hword, hlane]

/-- Settles O19: a lane of the word read at the offset, and the word of four lanes as a number. -/
theorem windowBytesAreLittleEndianLanes : Obligations.WindowBytesAreLittleEndianLanes := by
  constructor
  · intro s off j ha hw hj
    exact ⟨_, windowByte_lane ha hw hj s, by rw [laneOf_toNat, busRead_toNat ha]⟩
  · intro b0 b1 b2 b3 rest w h
    have hlanes : wordOfLanes b0 b1 b2 b3 = w := BitVec.eq_of_toNat_eq ((wordOfLanes_toNat b0 b1 b2 b3).trans h.symm)
    rw [decodeLanes, hlanes]

end Sys2Proof.Proofs
end

section
/-! What the decoder, the encoder and the assembler give, and the statements about the encoding (spec 30_encoding.md). -/

namespace Sys2Proof.Proofs

open Sys2Proof.Machine Sys2Proof.Safety

/-! ### The encoder's word as the number of R93 -/

theorem regBits_eq_ofNat (r : Reg) (lo : Nat) : regBits r lo = BitVec.ofNat 32 (r.val * 2 ^ lo) := by
  apply BitVec.eq_of_toNat_eq
  simp [regBits, BitVec.toNat_shiftLeft, Nat.shiftLeft_eq]

/-- A register field joins a word whose lower bits are free by addition. -/
theorem ofNat_or_regBits (n lo : Nat) (r : Reg) :
    BitVec.ofNat 32 (n * 2 ^ (lo + 3)) ||| regBits r lo = BitVec.ofNat 32 ((n * 8 + r.val) * 2 ^ lo) := by
  have hr : r.val * 2 ^ lo < 2 ^ (lo + 3) := by
    rw [Nat.pow_add, Nat.mul_comm]
    exact Nat.mul_lt_mul_of_pos_left r.isLt (Nat.two_pow_pos lo)
  rw [regBits_eq_ofNat, ← BitVec.ofNat_or, ← Nat.shiftLeft_eq, ← Nat.shiftLeft_add_eq_or_of_lt hr, Nat.shiftLeft_eq]
  ring_nf

theorem opcodeBits_eq_ofNat (c : Command) : opcodeBits c.opcode = BitVec.ofNat 32 (c.opcode.toNat * 2 ^ 26) := by
  cases c <;> rfl

theorem encodeR_eq_wordR (c : Command) (rd rs1 rs2 rs3 rs4 : Reg) :
    encodeR c rd rs1 rs2 rs3 rs4 = wordR c.opcode.toNat rd.val rs1.val rs2.val rs3.val rs4.val := by
  rw [encodeR, opcodeBits_eq_ofNat, ofNat_or_regBits _ 23, ofNat_or_regBits _ 20, ofNat_or_regBits _ 17,
    ofNat_or_regBits _ 14, ofNat_or_regBits _ 11, wordR]
  exact congrArg (BitVec.ofNat 32) (by omega)

theorem encodeI_eq_wordI (rd : Reg) {n : Nat} (h : n < 512) : encodeI rd n = wordI rd.val n := by
  have hn : n < 2 ^ 23 := by omega
  rw [encodeI, opcodeBits_eq_ofNat, ofNat_or_regBits _ 23, ← BitVec.ofNat_or, Nat.mod_eq_of_lt h, ← Nat.shiftLeft_eq,
    ← Nat.shiftLeft_add_eq_or_of_lt hn, Nat.shiftLeft_eq, wordI]
  have hop : Command.ldi.opcode.toNat = 1 := rfl
  exact congrArg (BitVec.ofNat 32) (by omega)

theorem ldi_wellFormed_iff {rd : Reg} {n : Nat} : (Instr.ldi rd n).wellFormed = true ↔ n < 512 := decide_eq_true_iff

theorem encode_eq_specWord {i : Instr} (h : i.wellFormed = true) : encode i = specWord i := by
  cases i with
  | ldi rd n => exact encodeI_eq_wordI rd (ldi_wellFormed_iff.1 h)
  | _ => exact encodeR_eq_wordR _ _ _ _ _ _

/-! ### Encode, then decode -/

theorem encode_selected (i : Instr) : encode i &&& i.command.mask = i.command.matchWord := by
  cases i with
  | nop => exact Laws.SelectedByItsRow.nop
  | ldi rd n => exact Laws.SelectedByItsRow.ldi rd n
  | mov rd rs1 => exact Laws.SelectedByItsRow.mov rd rs1
  | fadd rd rs1 rs2 => exact Laws.SelectedByItsRow.fadd rd rs1 rs2
  | fsub rd rs1 rs2 => exact Laws.SelectedByItsRow.fsub rd rs1 rs2
  | fmul rd rs1 rs2 => exact Laws.SelectedByItsRow.fmul rd rs1 rs2
  | finv rd rs1 => exact Laws.SelectedByItsRow.finv rd rs1
  | peval rd rs1 rs2 rs3 => exact Laws.SelectedByItsRow.peval rd rs1 rs2 rs3
  | btrunc rd rs1 => exact Laws.SelectedByItsRow.btrunc rd rs1
  | lagc rd rs1 rs2 => exact Laws.SelectedByItsRow.lagc rd rs1 rs2
  | lint rd rs1 rs2 rs3 rs4 => exact Laws.SelectedByItsRow.lint rd rs1 rs2 rs3 rs4
  | bclmp rd rs1 => exact Laws.SelectedByItsRow.bclmp rd rs1
  | bavgf rd rs1 rs2 rs3 rs4 => exact Laws.SelectedByItsRow.bavgf rd rs1 rs2 rs3 rs4
  | bavgp rd rs1 rs2 rs3 rs4 => exact Laws.SelectedByItsRow.bavgp rd rs1 rs2 rs3 rs4
  | sadacc rs1 rs2 => exact Laws.SelectedByItsRow.sadacc rs1 rs2
  | accclr => exact Laws.SelectedByItsRow.accclr

/-- The fields a row reads from an instruction's word are the instruction's operands. -/
theorem instr_encode {i : Instr} (h : i.wellFormed = true) : i.command.instr (encode i) = i := by
  cases i with
  | ldi rd n =>
    simp [Instr.command, Command.instr, encode, imm9Field_encodeI rd (ldi_wellFormed_iff.1 h)]
  | _ => simp [Instr.command, Command.instr, encode]

theorem decode_encode {i : Instr} (h : i.wellFormed = true) : decode (encode i) = .command i := by
  rw [decode_selected (encode_selected i), instr_encode h]

/-! ### Decode, then encode -/

theorem regBits_regField (w : Word) (lo : Nat) : regBits (regField w lo) lo = w &&& (7#32 <<< lo) := by
  have hreg : BitVec.ofNat 32 (regField w lo).val = (w.extractLsb' lo 3).setWidth 32 := BitVec.ofNat_toNat 32 _
  have hseven : ∀ (k : Nat) (hk : k < 32), (7#32)[k] = decide (k < 3) := by decide
  rw [regBits, hreg]
  ext i hi
  by_cases hlo : i < lo
  · simp [hlo]
  · simp [hlo, show lo + (i - lo) = i by omega, hseven, hi, Bool.and_comm]

theorem ofNat_imm9Field (w : Word) : BitVec.ofNat 32 (imm9Field w % 512) = w &&& 511#32 := by
  apply BitVec.eq_of_toNat_eq
  have hand : w.toNat &&& 511 = w.toNat % 512 := Nat.and_two_pow_sub_one_eq_mod w.toNat 9
  simp [imm9Field, hand]
  omega

theorem opcodeBits_eq_matchWord (c : Command) : opcodeBits c.opcode = c.matchWord := by
  cases c <;> rfl

/-- The encoder puts the fields a row reads back at their bits, which are exactly those the row's mask leaves out. -/
theorem encode_instr (c : Command) (w : Word) : encode (c.instr w) = c.matchWord ||| (w &&& ~~~c.mask) := by
  cases c <;>
    simp only [Command.instr, encode, encodeR, encodeI, rdField, rs1Field, rs2Field, rs3Field, rs4Field, regBits_regField,
      ofNat_imm9Field, regBits_zero, opcodeBits_eq_matchWord, BitVec.or_zero, BitVec.or_assoc,
      ← BitVec.and_or_distrib_left] <;>
    simp [Command.mask]

theorem encode_of_decode {w : Word} {i : Instr} (h : decode w = .command i) : encode i = w := by
  obtain ⟨c, hsel, rfl⟩ := decode_command_iff.1 h
  rw [encode_instr, ← hsel, ← BitVec.and_or_distrib_left, BitVec.or_not_self, BitVec.and_allOnes]

/-- Settles O5: the pieces of the encoder's word add up to the formula, the word is selected by its instruction's row, and
mask and fields share out the bits of a legal word. -/
theorem encodeAndDecodeAreInverse : Obligations.EncodeAndDecodeAreInverse :=
  ⟨fun _ => encode_eq_specWord, fun _ => decode_encode, fun _ _ => encode_of_decode⟩

/-! ### Rows and illegal words -/

/-- The row of R86's table for a command. -/
def tableRow (c : Command) : TableRow := ⟨c, c.opcode, c.matchWord, c.mask⟩

theorem mem_specTable_iff {row : TableRow} : row ∈ specTable ↔ ∃ c, row = tableRow c := by
  rw [mem_specTable]
  exact ⟨fun h => ⟨row.command, h⟩, by rintro ⟨c, rfl⟩; rfl⟩

theorem tableRow_mem (c : Command) : tableRow c ∈ specTable := mem_specTable_iff.2 ⟨c, rfl⟩

/-- A word decodes to a command of a row exactly when the row selects it (R86). -/
theorem exists_decode_iff_selected {w : Word} {c : Command} :
    (∃ i, decode w = .command i ∧ i.command = c) ↔ w &&& c.mask = c.matchWord := by
  constructor
  · rintro ⟨i, hd, rfl⟩
    obtain ⟨c, hsel, rfl⟩ := decode_command_iff.1 hd
    rwa [command_instr]
  · intro hsel
    exact ⟨_, decode_selected hsel, command_instr c w⟩

/-- At most one row selects a word (R89). -/
theorem command_unique_of_selected {w : Word} {c c' : Command} (h : w &&& c.mask = c.matchWord)
    (h' : w &&& c'.mask = c'.matchWord) : c' = c := by
  obtain ⟨i, hd, rfl⟩ := exists_decode_iff_selected.2 h
  obtain ⟨i', hd', rfl⟩ := exists_decode_iff_selected.2 h'
  rw [hd] at hd'
  cases hd'
  rfl

theorem raisesIllegal_of_decode {w : Word} {why : IllegalReason} (h : decode w = .illegal why) : RaisesIllegal w :=
  fun s => ⟨_, by simp only [executeWord, h, State.raiseErr_eq], onlyRecordsError_recordError s .illegal w⟩

/-- Settles O2: a selected word decodes by its row, and a decoded word is selected by the row of its instruction. -/
theorem wordSelectsCommandExactlyWhenMaskedBitsMatch : Obligations.WordSelectsCommandExactlyWhenMaskedBitsMatch := by
  constructor
  · intro row hrow w
    obtain ⟨c, rfl⟩ := mem_specTable_iff.1 hrow
    refine ⟨exists_decode_iff_selected.symm, fun hsel => ⟨opcode_of_selected hsel, ?_⟩⟩
    exact instr_eq_withFieldsUsed c w ▸ decode_selected hsel
  · intro w i _
    exact ⟨tableRow i.command, tableRow_mem _, rfl⟩

/-- Settles O3: the decoder answers each of the two kinds of words with its reason, and executing an illegal word only
records the error. -/
theorem illegalWordsRecordIllegalAndNothingElse : Obligations.IllegalWordsRecordIllegalAndNothingElse := by
  constructor
  · intro w hop
    exact raisesIllegal_of_decode (decode_unassigned fun c => hop (tableRow c) (tableRow_mem c))
  · intro row hrow w hop hmask
    obtain ⟨c, rfl⟩ := mem_specTable_iff.1 hrow
    exact raisesIllegal_of_decode (decode_unused hop hmask)

theorem decode_eq_nop_iff {w : Word} : decode w = .command .nop ↔ w = 0#32 := by
  constructor
  · intro h
    exact (encode_of_decode h).symm
  · rintro rfl
    exact decode_encode (i := .nop) rfl

/-- Settles O4: a word the decoder takes is selected by one row, and one it rejects by none. -/
theorem everyWordIsOneCommandOrIllegal : Obligations.EveryWordIsOneCommandOrIllegal := by
  refine ⟨fun w => ?_, fun w => decode_eq_nop_iff⟩
  cases hd : decode w with
  | command i =>
    obtain ⟨c, hsel, -⟩ := decode_command_iff.1 hd
    refine .inl ⟨tableRow c, tableRow_mem c, hsel, fun row hrow hsel' => ?_⟩
    obtain ⟨c', rfl⟩ := mem_specTable_iff.1 hrow
    exact congrArg tableRow (command_unique_of_selected hsel hsel')
  | illegal why =>
    refine .inr ⟨fun row hrow hsel => ?_, raisesIllegal_of_decode hd⟩
    obtain ⟨c, rfl⟩ := mem_specTable_iff.1 hrow
    exact absurd (hd.symm.trans (decode_selected hsel)) Decoded.noConfusion

theorem imm9Field_lt (w : Word) : imm9Field w < 512 := (w.extractLsb' 0 9).isLt

/-- Settles O6: the one row with an immediate reads nine bits. -/
theorem decodedInstructionsAreWellFormed : Obligations.DecodedInstructionsAreWellFormed := by
  intro w i h
  obtain ⟨c, -, rfl⟩ := decode_command_iff.1 h
  cases c with
  | ldi => exact ldi_wellFormed_iff.2 (imm9Field_lt w)
  | _ => rfl

/-- Settles O1: each word evaluates. -/
theorem wordsOfTheSpecDecode : Obligations.WordsOfTheSpecDecode := by
  unfold Obligations.WordsOfTheSpecDecode
  decide

/-! ### Pseudo-instructions -/

theorem exec_ldi_of_le {n : Nat} (h : n ≤ 256) (rd : Reg) (s : State) :
    exec (.ldi rd n) s = .next (s.setF rd ⟨n, by omega⟩) := by
  simp only [exec, execLdi, immediateElement_of_le h]

theorem exec_ldi_onlyWritesField {n : Nat} (h : n ≤ 256) (rd : Reg) (s : State) :
    ∃ t, exec (.ldi rd n) s = .next t ∧ OnlyWritesField rd n s t :=
  ⟨_, exec_ldi_of_le h rd s, onlyWritesField_setF s rd rfl⟩

/-- Settles O7: each expansion is one write of its destination, with the value of one field operation. -/
theorem pseudoInstructionsDoWhatTheyMean : Obligations.PseudoInstructionsDoWhatTheyMean := by
  intro s d a
  refine ⟨rfl, rfl, rfl, rfl, exec_ldi_onlyWritesField (by decide) d s, ⟨_, rfl, onlyWritesField_setF s d ?_⟩,
    ⟨_, rfl, onlyWritesField_setF s d ?_⟩, exec_ldi_onlyWritesField (by decide) d s⟩
  · rw [fieldAdd_val, two_mul]
  · rw [fieldMul_val, sq]

/-! ### The assembler -/

theorem assembleOperands_ldi {d v : List Char} {rd : Reg} {n : Nat} (hd : parseReg d = some rd)
    (hv : parseImmediate v = some n) :
    assembleOperands .ldi [d, v] = if n ≤ 256 then some (.ldi rd n) else none := by
  simp only [assembleOperands, hd, hv, Option.bind_some]

/-- Register operands alone never make an LDI: no command takes more than five of them, and for each shorter list the
command decides what it makes. -/
theorem withRegisters_assemblable {c : Command} {rs : List Reg} {i : Instr} (h : withRegisters c rs = some i) :
    i.assemblable = true := by
  obtain _ | ⟨r1, _ | ⟨r2, _ | ⟨r3, _ | ⟨r4, _ | ⟨r5, _ | ⟨r6, rs⟩⟩⟩⟩⟩⟩ := rs <;> cases c <;> cases h <;> rfl

theorem assembleOperands_assemblable {c : Command} {ops : List (List Char)} {i : Instr}
    (h : assembleOperands c ops = some i) : i.assemblable = true := by
  unfold assembleOperands at h
  split at h
  · obtain ⟨rd, -, h⟩ := Option.bind_eq_some_iff.1 h
    obtain ⟨n, -, h⟩ := Option.bind_eq_some_iff.1 h
    split at h
    · cases h
      exact decide_eq_true ‹n ≤ 256›
    · cases h
  · obtain ⟨rs, -, h⟩ := Option.bind_eq_some_iff.1 h
    exact withRegisters_assemblable h

theorem expand_assemblable (p : Pseudo) : p.expand.assemblable = true := by
  cases p <;> rfl

theorem assemblePseudo_assemblable {name : List Char} {ops : List (List Char)} {i : Instr}
    (h : assemblePseudo name ops = some i) : i.assemblable = true := by
  obtain ⟨rs, -, h⟩ := Option.bind_eq_some_iff.1 h
  split at h
  · split_ifs at h <;> cases h <;> exact expand_assemblable _
  · split_ifs at h <;> cases h <;> exact expand_assemblable _
  · cases h

theorem eq_some_of_elim_command {o : Option Instr} {i : Instr} (h : o.elim .rejected .command = AsmLine.command i) :
    o = some i := by
  cases o with
  | none => cases h
  | some j => exact congrArg some (AsmLine.command.inj h)

theorem assembleLine_assemblable {line : List Char} {i : Instr} (h : assembleLine line = .command i) :
    i.assemblable = true := by
  unfold assembleLine at h
  simp only at h
  split at h
  · cases h
  · split at h
    · exact assembleOperands_assemblable (eq_some_of_elim_command h)
    · exact assemblePseudo_assemblable (eq_some_of_elim_command h)

/-- Settles O8: the bound is checked in the one place an LDI is made from text; the lines evaluate. -/
theorem assemblerRejectsImmediatesAbove256 : Obligations.AssemblerRejectsImmediatesAbove256 :=
  ⟨fun _ _ _ _ => assembleOperands_ldi, by decide, by decide, by decide, by decide, by decide,
    fun _ _ => assembleLine_assemblable⟩

end Sys2Proof.Proofs
end

section
/-! The encoding of a command's row, and the statements about the operand movement commands (spec 40_moves.md). -/

namespace Sys2Proof.Proofs

open Sys2Proof.Machine Sys2Proof.Safety

/-! ### Every command's row -/

/-- Each row of the table is the encoding of its command: the words it selects decode with the fields the row uses, and
the other words of its opcode are illegal (R86, R88). -/
theorem encodedAs_row (c : Command) : EncodedAs c.opcode c.matchWord c.mask fun w => withFieldsUsed w c := by
  constructor
  · intro w hsel
    exact (decode_selected hsel).trans (congrArg Decoded.command (instr_eq_withFieldsUsed c w))
  · intro w hop hmask
    exact raisesIllegal_of_decode (decode_unused hop hmask)

/-- A command that errs records the word it was decoded from: ERRINFO's encoding of the command is that word (R93, R214). -/
theorem executeWord_onlyRecordsError {w : Word} {i : Instr} {c : ErrCode} {s : State} (hd : decode w = .command i)
    (herr : exec i s = s.raiseErr c (encode i)) : ∃ t, executeWord w s = .next t ∧ OnlyRecordsError c w s t := by
  refine ⟨s.recordError c w, ?_, onlyRecordsError_recordError s c w⟩
  simp only [executeWord, hd, herr, encode_of_decode hd, State.raiseErr_eq]

/-! ### NOP, LDI and MOV -/

theorem nothingChanged_refl (s : State) : NothingChanged s s := by
  simp [NothingChanged, SameFields, SameStatus, SameOutside]

theorem exec_ldi_of_gt {n : Nat} (h : 256 < n) (rd : Reg) (s : State) :
    exec (.ldi rd n) s = s.raiseErr .range (encode (.ldi rd n)) := by
  simp only [exec, execLdi, immediateElement_of_gt h]

/-- Settles O20: NOP answers the state it is given. -/
theorem nopChangesNothing : Obligations.NopChangesNothing :=
  ⟨encodedAs_row .nop, fun s => ⟨s, rfl, nothingChanged_refl s⟩⟩

/-- Settles O21: an immediate is a field element exactly up to 256; the word of one above decodes to an LDI that errs. -/
theorem ldiLoadsFieldElementsAndRejectsOthers : Obligations.LdiLoadsFieldElementsAndRejectsOthers := by
  refine ⟨encodedAs_row .ldi, fun s rd imm9 hle => exec_ldi_onlyWritesField hle rd s, fun s w hsel hgt => ?_⟩
  have hd : decode w = .command (.ldi (regAt w 23) (w.extractLsb' 0 9).toNat) := (encodedAs_row .ldi).1 w hsel
  exact executeWord_onlyRecordsError hd (exec_ldi_of_gt hgt _ s)

/-- Settles O22: MOV is one write of its destination, with the value its source held. -/
theorem movCopiesAFieldRegister : Obligations.MovCopiesAFieldRegister :=
  ⟨encodedAs_row .mov, fun s rd rs1 => ⟨s.setF rd (s.F rs1), rfl, onlyWritesField_setF s rd rfl⟩⟩

end Sys2Proof.Proofs
end

section
/-! The statements about the field arithmetic commands and the laws of the field (spec 41_field_arith.md). -/

namespace Sys2Proof.Proofs

open Sys2Proof.Machine Sys2Proof.Safety

/-! ### FADD, FSUB and FMUL -/

/-- R112's formula: the difference is the one of the integers. -/
theorem fieldSub_val_eq_int (a b : GF) : (fieldSub a b).val = (((a.val : Int) - (b.val : Int) + 257) % 257).toNat := by
  rw [fieldSub_val]
  omega

/-- Settles O23: FADD is one write of its destination, with the field sum. -/
theorem faddAddsModulo257 : Obligations.FaddAddsModulo257 :=
  ⟨encodedAs_row .fadd, fun s rd _ _ => ⟨_, rfl, onlyWritesField_setF s rd (fieldAdd_val _ _)⟩⟩

/-- Settles O24: FSUB is one write of its destination, with the field difference. -/
theorem fsubSubtractsModulo257 : Obligations.FsubSubtractsModulo257 :=
  ⟨encodedAs_row .fsub, fun s rd _ _ => ⟨_, rfl, onlyWritesField_setF s rd (fieldSub_val_eq_int _ _)⟩⟩

/-- Settles O25: FMUL is one write of its destination, with the field product. -/
theorem fmulMultipliesModulo257 : Obligations.FmulMultipliesModulo257 :=
  ⟨encodedAs_row .fmul, fun s rd _ _ => ⟨_, rfl, onlyWritesField_setF s rd (fieldMul_val _ _)⟩⟩

/-! ### FINV -/

theorem exec_finv_of_zero {s : State} {rs1 : Reg} (h : s.F rs1 = 0) (rd : Reg) :
    exec (.finv rd rs1) s = s.raiseErr .domain (encode (.finv rd rs1)) := if_pos h

theorem exec_finv_of_ne_zero {s : State} {rs1 : Reg} (h : s.F rs1 ≠ 0) (rd : Reg) :
    exec (.finv rd rs1) s = .next (s.setF rd (fieldInv (s.F rs1))) := if_neg h

theorem fieldInv_val_pos {n : GF} (h : n ≠ 0) : 1 ≤ (fieldInv n).val :=
  Fin.pos_iff_ne_zero.2 (fieldInv_ne_zero h)

/-- A number with an inverse modulo 257 has only one below 257: it is coprime to 257, so it cancels (R114). -/
theorem inverse_unique {n m m' : Nat} (hm : m ≤ 256) (hm' : m' ≤ 256) (h : n * m % 257 = 1) (h' : n * m' % 257 = 1) :
    m' = m := by
  have hco : n.Coprime 257 := Nat.coprime_of_mul_modEq_one m h
  have hmod : m' ≡ m [MOD 257] := Nat.ModEq.cancel_left_of_coprime hco.symm (h'.trans h.symm)
  exact hmod.eq_of_lt_of_lt (by omega) (by omega)

/-- Settles O26: the inverse circuit gives an inverse, which is the only one; the word of an FINV of 0 decodes to a
command that errs. -/
theorem finvWritesTheUniqueInverseOrRaisesDomain : Obligations.FinvWritesTheUniqueInverseOrRaisesDomain := by
  refine ⟨encodedAs_row .finv, fun s rd rs1 hn => ?_, fun s w hsel hz => ?_⟩
  · have hle : (fieldInv (s.F rs1)).val ≤ 256 := Fin.is_le _
    have hinv := fieldInv_spec (s.F rs1) hn
    exact ⟨_, _, exec_finv_of_ne_zero hn rd, onlyWritesField_setF s rd rfl, fieldInv_val_pos hn, hle, hinv,
      fun m' _ hle' h' => inverse_unique hle hle' hinv h'⟩
  · have hd : decode w = .command (.finv (regAt w 23) (regAt w 20)) := (encodedAs_row .finv).1 w hsel
    exact executeWord_onlyRecordsError hd (exec_finv_of_zero hz _)

/-! ### The field laws

Each law is one of Mathlib's field `ZMod 257`, brought back along the injection `asZMod`. -/

@[simp] theorem asZMod_zero : asZMod 0 = 0 := Nat.cast_zero

@[simp] theorem asZMod_one : asZMod 1 = 1 := Nat.cast_one

theorem fieldAdd_comm (a b : GF) : fieldAdd a b = fieldAdd b a :=
  asZMod_injective (by simp only [asZMod_fieldAdd, add_comm])

theorem fieldMul_comm (a b : GF) : fieldMul a b = fieldMul b a :=
  asZMod_injective (by simp only [asZMod_fieldMul, mul_comm])

theorem fieldAdd_assoc (a b c : GF) : fieldAdd (fieldAdd a b) c = fieldAdd a (fieldAdd b c) :=
  asZMod_injective (by simp only [asZMod_fieldAdd, add_assoc])

theorem fieldMul_assoc (a b c : GF) : fieldMul (fieldMul a b) c = fieldMul a (fieldMul b c) :=
  asZMod_injective (by simp only [asZMod_fieldMul, mul_assoc])

theorem fieldMul_fieldAdd (a b c : GF) : fieldMul a (fieldAdd b c) = fieldAdd (fieldMul a b) (fieldMul a c) :=
  asZMod_injective (by simp only [asZMod_fieldAdd, asZMod_fieldMul, mul_add])

theorem fieldInv_fieldMul {n : GF} (h : n ≠ 0) : fieldMul (fieldInv n) n = 1 :=
  asZMod_injective (by rw [fieldMul_comm, asZMod_fieldMul, asZMod_fieldInv_mul h, asZMod_one])

theorem fieldSub_eq_fieldAdd (a b : GF) : fieldSub a b = fieldAdd a (fieldSub 0 b) :=
  asZMod_injective (by simp [sub_eq_add_neg])

@[simp] theorem fieldAdd_zero (a : GF) : fieldAdd a 0 = a := asZMod_injective (by simp)

@[simp] theorem fieldMul_one (a : GF) : fieldMul a 1 = a := asZMod_injective (by simp)

/-- Settles O47: the laws are those of ZMod 257, and FINV of 0 records DOMAIN as the first error. -/
theorem fieldLawsHold : Obligations.FieldLawsHold := by
  refine ⟨fun a b => ⟨fieldAdd_comm a b, fieldMul_comm a b⟩,
    fun a b c => ⟨fieldAdd_assoc a b c, fieldMul_assoc a b c, fieldMul_fieldAdd a b c⟩,
    fun n hn => fieldInv_fieldMul hn, fieldSub_eq_fieldAdd, fun a => ⟨fieldAdd_zero a, fieldMul_one a⟩,
    fun s rd rs1 hz herr => ?_⟩
  exact ⟨s.recordError .domain _, exec_finv_of_zero hz rd, by simp, by simp [herr]⟩

end Sys2Proof.Proofs
end

section
/-! The statements about the polynomial evaluator and the encode-path byte conversion (spec 42_share_eval.md). -/

namespace Sys2Proof.Proofs

open Sys2Proof.Machine Sys2Proof.Safety

/-- Settles O27: PEVAL is one write of its destination, with the value of the Horner form. -/
theorem pevalEvaluatesThePolynomial : Obligations.PevalEvaluatesThePolynomial :=
  ⟨encodedAs_row .peval, fun s rd _ _ _ => ⟨_, rfl, onlyWritesField_setF s rd (horner_val _ _ _)⟩⟩

/-- Settles O28: BTRUNC is one write of its destination, with the truncated byte. -/
theorem btruncKeepsTheLowEightBits : Obligations.BtruncKeepsTheLowEightBits :=
  ⟨encodedAs_row .btrunc, fun s rd _ => ⟨_, rfl, onlyWritesField_setF s rd (truncateByte_val _)⟩⟩

end Sys2Proof.Proofs
end

section
/-! The statements about the Lagrange coefficient generator, the interpolator and the clamp (spec 43_lagrange.md). -/

namespace Sys2Proof.Proofs

open Sys2Proof.Machine Sys2Proof.Safety

/-! ### LAGC, LINT and BCLMP -/

theorem exec_lagc_of_eq {s : State} {rs1 rs2 : Reg} (h : s.F rs1 = s.F rs2) (rd : Reg) :
    exec (.lagc rd rs1 rs2) s = s.raiseErr .dupx (encode (.lagc rd rs1 rs2)) := if_pos h

theorem exec_lagc_of_ne {s : State} {rs1 rs2 : Reg} (h : s.F rs1 ≠ s.F rs2) (rd : Reg) :
    exec (.lagc rd rs1 rs2) s = .next (s.setF rd (lagrangeBasis (s.F rs1) (s.F rs2))) := if_neg h

theorem exec_bclmp_of_byte {s : State} {rs1 : Reg} (h : (s.F rs1).val ≤ 255) (rd : Reg) :
    exec (.bclmp rd rs1) s = .next (s.setF rd (s.F rs1)) := if_pos ((isByte_iff _).2 h)

theorem onlyClamps_setF (s : State) (rd : Reg) : OnlyClamps rd s (s.setF rd 255).warnClampEvent := by
  have hF : WritesField rd 255 s (s.setF rd 255).warnClampEvent :=
    ⟨by simp, fun r hr => by simp [State.F_setF_ne s 255 hr]⟩
  simp [OnlyClamps, hF, saturatingSucc_toNat, SameOutside]

/-- LAGC never forms the inverse of 0: the difference of distinct coordinates is not 0 (R140). -/
theorem fieldSub_ne_zero {a b : GF} (h : a ≠ b) : fieldSub a b ≠ 0 := by
  intro e
  have hsub : asZMod a - asZMod b = 0 := by rw [← asZMod_fieldSub, e, asZMod_zero]
  exact h (asZMod_injective (sub_eq_zero.1 hsub))

/-- Settles O29: distinct coordinates have a difference the inverse circuit inverts; the word of a LAGC of equal ones
decodes to a command that errs. -/
theorem lagcWritesTheBasisCoefficientOrRaisesDupx : Obligations.LagcWritesTheBasisCoefficientOrRaisesDupx := by
  refine ⟨encodedAs_row .lagc, fun s rd rs1 rs2 hne => ?_, fun s w hsel heq => ?_⟩
  · have hd : fieldSub (s.F rs2) (s.F rs1) ≠ 0 := fieldSub_ne_zero hne.symm
    have hle : (fieldInv (fieldSub (s.F rs2) (s.F rs1))).val ≤ 256 := Fin.is_le _
    exact ⟨_, _, _, exec_lagc_of_ne hne rd, fieldSub_val_eq_int _ _, fieldInv_val_pos hd, hle, fieldInv_spec _ hd,
      onlyWritesField_setF s rd (fieldMul_val _ _)⟩
  · have hd : decode w = .command (.lagc (regAt w 23) (regAt w 20) (regAt w 17)) := (encodedAs_row .lagc).1 w hsel
    exact executeWord_onlyRecordsError hd (exec_lagc_of_eq heq _)

/-- Settles O30: LINT is one write of its destination, with the interpolated value. -/
theorem lintInterpolatesWithoutClamping : Obligations.LintInterpolatesWithoutClamping :=
  ⟨encodedAs_row .lint, fun s rd _ _ _ _ => ⟨_, rfl, onlyWritesField_setF s rd (interpolate_val _ _ _ _)⟩⟩

/-- Settles O31: a value over 255 takes the clamp's write and warning, every other value is one write. -/
theorem bclmpClampsWithAWarning : Obligations.BclmpClampsWithAWarning := by
  refine ⟨encodedAs_row .bclmp, fun s rd rs1 => ?_⟩
  by_cases h : 255 < (s.F rs1).val
  · exact ⟨_, exec_bclmp_clamps rd h, by simpa only [if_pos h] using onlyClamps_setF s rd⟩
  · exact ⟨_, exec_bclmp_of_byte (Nat.le_of_not_lt h) rd, by simpa only [if_neg h] using onlyWritesField_setF s rd rfl⟩

/-! ### The coefficients of the share pairs -/

/-- R142's table, computed at its six rows. -/
theorem lagrangeBasis_sharePairs :
    lagrangeBasis 1 2 = 2 ∧ lagrangeBasis 2 1 = 256 ∧ lagrangeBasis 1 3 = 130 ∧ lagrangeBasis 3 1 = 128 ∧
    lagrangeBasis 2 3 = 3 ∧ lagrangeBasis 3 2 = 255 := by decide

/-- Settles O48: the coefficients are the table's, and with them each formula is an identity of numbers modulo 257. -/
theorem lagrangeCoefficientsOfTheSharePairs : Obligations.LagrangeCoefficientsOfTheSharePairs := by
  obtain ⟨h12, h21, h13, h31, h23, h32⟩ := lagrangeBasis_sharePairs
  refine ⟨by decide, fun y1 y2 => ⟨?_, ?_, ?_⟩⟩
  · simp only [h12, h21, Fin.ext_iff, interpolate_val, fieldSub_val, fieldMul_val, Fin.coe_ofNat_eq_mod]
    omega
  · simp only [h13, h31, Fin.ext_iff, interpolate_val, fieldAdd_val, fieldMul_val, Fin.coe_ofNat_eq_mod]
    omega
  · simp only [h23, h32, Fin.ext_iff, interpolate_val, fieldSub_val, fieldMul_val, Fin.coe_ofNat_eq_mod]
    omega

/-! ### Interpolation of a line -/

theorem asZMod_lagrangeBasis_mul {xi xj : GF} (h : xi ≠ xj) :
    asZMod (lagrangeBasis xi xj) * (asZMod xj - asZMod xi) = asZMod xj := by
  have hinv := asZMod_fieldInv_mul (fieldSub_ne_zero h.symm)
  rw [asZMod_fieldSub] at hinv
  rw [lagrangeBasis, asZMod_fieldMul]
  linear_combination asZMod xj * hinv

/-- Two points that differ leave a difference that cancels, 257 being prime. -/
theorem eq_of_mul_asZMod_sub_eq {x1 x2 : GF} (h : x1 ≠ x2) {p q : ZMod 257}
    (e : p * (asZMod x2 - asZMod x1) = q * (asZMod x2 - asZMod x1)) : p = q := by
  have : Fact (Nat.Prime 257) := ⟨prime_P⟩
  exact mul_right_cancel₀ (sub_ne_zero.2 fun hx => h (asZMod_injective hx).symm) e

/-- The two coefficients of a pair sum to 1 (R140), so a constant is recovered. -/
theorem asZMod_lagrangeBasis_add {x1 x2 : GF} (h : x1 ≠ x2) :
    asZMod (lagrangeBasis x1 x2) + asZMod (lagrangeBasis x2 x1) = 1 := by
  apply eq_of_mul_asZMod_sub_eq h
  linear_combination asZMod_lagrangeBasis_mul h - asZMod_lagrangeBasis_mul h.symm

/-- The coefficients weigh the points themselves to 0, the value at 0 of the line f(x) = x. -/
theorem asZMod_mul_lagrangeBasis_add {x1 x2 : GF} (h : x1 ≠ x2) :
    asZMod x1 * asZMod (lagrangeBasis x1 x2) + asZMod x2 * asZMod (lagrangeBasis x2 x1) = 0 := by
  apply eq_of_mul_asZMod_sub_eq h
  linear_combination asZMod x1 * asZMod_lagrangeBasis_mul h - asZMod x2 * asZMod_lagrangeBasis_mul h.symm

/-- R145 for the functions the commands compute. -/
theorem interpolate_horner {x1 x2 : GF} (h : x1 ≠ x2) (a0 a1 : GF) :
    interpolate (horner a0 a1 x1) (lagrangeBasis x1 x2) (horner a0 a1 x2) (lagrangeBasis x2 x1) = a0 := by
  apply asZMod_injective
  rw [asZMod_interpolate, asZMod_horner, asZMod_horner]
  linear_combination asZMod a1 * asZMod_mul_lagrangeBasis_add h + asZMod a0 * asZMod_lagrangeBasis_add h

/-! ### The host's writes of the five commands -/

/-- The host's write of a command's word runs the command, then the later writes go on from its result (R55, R65). -/
theorem takeEvents_hostCommand_cons {i : Instr} {s t : State} (hr : s.resetLine = false) (hw : i.wellFormed = true)
    (h : exec i (s.setLastCmd (encode i)) = .next t) (es : List BusEvent) :
    takeEvents (hostCommand (encode i) :: es) s = takeEvents es t := by
  apply takeEvents_cons
  rw [takeEvent_hostCommand _ hr, commandWrite_command (decode_encode hw), h]

/-- The commands of R145 in turn: the shares y1 and y2 go to F4 and F5, the coefficients of the points in F2 and F3 to F6
and F7, and the interpolated value to F4. None of them writes a status register. -/
theorem takeEvents_interpolation {s : State} (hr : s.resetLine = false) (hne : s.F 2 ≠ s.F 3) :
    ∃ t, takeEvents ([Instr.peval 4 0 1 2, .peval 5 0 1 3, .lagc 6 2 3, .lagc 7 3 2, .lint 4 4 6 5 7].map
        fun i => hostCommand (encode i)) s = .next t ∧
      t.F 4 = s.F 0 ∧ t.resetLine = false ∧ t.warnClamp = s.warnClamp ∧ t.clampCnt = s.clampCnt := by
  refine ⟨?t, ?run, ?value, ?rest⟩
  case run =>
    simp only [List.map_cons, List.map_nil]
    rw [takeEvents_hostCommand_cons hr rfl rfl,
      takeEvents_hostCommand_cons ?_ rfl rfl,
      takeEvents_hostCommand_cons ?_ rfl (exec_lagc_of_ne ?_ 6),
      takeEvents_hostCommand_cons ?_ rfl (exec_lagc_of_ne ?_ 7),
      takeEvents_hostCommand_cons ?_ rfl rfl, takeEvents_nil]
    -- each write meets a released reset input, and each LAGC the two points unchanged
    all_goals simp [State.F_setF, hr, hne, hne.symm]
  case value =>
    simpa [State.F_setF] using interpolate_horner hne (s.F 0) (s.F 1)
  case rest =>
    simp [hr]

/-- Settles O49: the five commands recover the constant term by the identity of the line; a byte then passes the clamp as
one write, which keeps the warning and its count. -/
theorem interpolationRecoversTheConstantTerm : Obligations.InterpolationRecoversTheConstantTerm := by
  intro s hr hne
  obtain ⟨t, hrun, hF4, htr, hwarn, hcnt⟩ := takeEvents_interpolation hr hne
  obtain ⟨u, hexec, hu⟩ := bclmpClampsWithAWarning.2 (t.setLastCmd (encode (.bclmp 5 4))) 5 4
  refine ⟨t, u, hrun, hF4, takeEvents_hostCommand_cons htr rfl hexec [], fun hbyte => ?_⟩
  rw [State.F_setLastCmd, hF4, if_neg (Nat.not_lt.2 hbyte)] at hu
  obtain ⟨⟨hF5, -⟩, -, ⟨-, huWarn, -, -, -, huCnt⟩, -⟩ := hu
  exact ⟨Fin.ext hF5, huWarn.trans hwarn, huCnt.trans hcnt⟩

end Sys2Proof.Proofs
end

section
/-! The statements about the two 2×2 block averagers (spec 44_block_average.md). -/

namespace Sys2Proof.Proofs

open Sys2Proof.Machine Sys2Proof.Safety

/-! ### BAVGF and BAVGP -/

theorem exec_bavgp_of_bytes {s : State} {rs1 rs2 rs3 rs4 : Reg} (h : ∀ r ∈ [rs1, rs2, rs3, rs4], (s.F r).val ≤ 255)
    (rd : Reg) :
    exec (.bavgp rd rs1 rs2 rs3 rs4) s = .next (s.setF rd (plainAverage (s.F rs1) (s.F rs2) (s.F rs3) (s.F rs4))) :=
  if_pos (by simpa [and_assoc] using h)

theorem exec_bavgp_of_gt {s : State} {rs1 rs2 rs3 rs4 : Reg} (h : ∃ r ∈ [rs1, rs2, rs3, rs4], 255 < (s.F r).val)
    (rd : Reg) :
    exec (.bavgp rd rs1 rs2 rs3 rs4) s = s.raiseErr .range (encode (.bavgp rd rs1 rs2 rs3 rs4)) := by
  refine if_neg fun hb => ?_
  obtain ⟨r, hr, hgt⟩ := h
  have hbytes : ∀ r ∈ [rs1, rs2, rs3, rs4], (s.F r).val ≤ 255 := by simpa [and_assoc] using hb
  exact absurd (hbytes r hr) (Nat.not_le.2 hgt)

/-- Settles O32: BAVGF is one write of its destination, with the field average. -/
theorem bavgfMultipliesTheFieldSumBy193 : Obligations.BavgfMultipliesTheFieldSumBy193 := by
  refine ⟨encodedAs_row .bavgf, fun s rd rs1 rs2 rs3 rs4 => ⟨_, rfl, onlyWritesField_setF s rd ?_⟩, rfl⟩
  rw [fieldAverage_val, Nat.mod_mul_mod]

/-- Settles O33: four bytes take the write of the plaintext average; the word of a BAVGP with a larger operand decodes to
a command that errs. -/
theorem bavgpAveragesBytesOrRaisesRange : Obligations.BavgpAveragesBytesOrRaisesRange := by
  refine ⟨encodedAs_row .bavgp, fun s rd rs1 rs2 rs3 rs4 h1 h2 h3 h4 => ?_, fun s w hsel hgt => ?_⟩
  · exact ⟨_, exec_bavgp_of_bytes (by simp [h1, h2, h3, h4]) rd, onlyWritesField_setF s rd (plainAverage_val h1 h2 h3 h4)⟩
  · have hd := (encodedAs_row .bavgp).1 w hsel
    exact executeWord_onlyRecordsError hd (exec_bavgp_of_gt (by simpa using hgt) _)

/-! ### Averages of shares -/

/-- The field average is linear, so averaging commutes with evaluating at one coordinate (R164). -/
theorem fieldAverage_horner (s1 s2 s3 s4 c1 c2 c3 c4 x : GF) :
    fieldAverage (horner s1 c1 x) (horner s2 c2 x) (horner s3 c3 x) (horner s4 c4 x) =
      horner (fieldAverage s1 s2 s3 s4) (fieldAverage c1 c2 c3 c4) x := by
  apply asZMod_injective
  simp only [asZMod_fieldAverage, asZMod_horner]
  ring

/-- With n = 4 q + r the product is q + 193 r modulo 257, 193 being the inverse of 4: the quotient q exactly when the
remainder r is 0 (R164). -/
theorem mul_193_mod_eq_div_four_iff {n : Nat} (h : n ≤ 1020) : n * 193 % 257 = n / 4 ↔ n % 4 = 0 := by
  omega

/-- Settles O50: linearity of the field average, and the two averages of one sum of bytes compared. -/
theorem averageOfSharesIsAShareOfTheAverage : Obligations.AverageOfSharesIsAShareOfTheAverage := by
  refine ⟨fieldAverage_horner, fun s1 s2 s3 s4 h1 h2 h3 h4 => ?_⟩
  rw [Fin.ext_iff, fieldAverage_val, plainAverage_val h1 h2 h3 h4]
  exact mul_193_mod_eq_div_four_iff (by omega)

/-! ### The order of the operands -/

theorem fieldAverage_congr_sum {p1 p2 p3 p4 q1 q2 q3 q4 : GF}
    (h : q1.val + q2.val + q3.val + q4.val = p1.val + p2.val + p3.val + p4.val) :
    fieldAverage q1 q2 q3 q4 = fieldAverage p1 p2 p3 p4 :=
  Fin.ext (by rw [fieldAverage_val, fieldAverage_val, h])

theorem plainAverage_congr_sum {p1 p2 p3 p4 q1 q2 q3 q4 : GF}
    (h : q1.val + q2.val + q3.val + q4.val = p1.val + p2.val + p3.val + p4.val) :
    plainAverage q1 q2 q3 q4 = plainAverage p1 p2 p3 p4 := by
  rw [plainAverage, plainAverage, h]

theorem operandSum_of_perm (s : State) {p1 p2 p3 p4 q1 q2 q3 q4 : Reg} (h : [q1, q2, q3, q4].Perm [p1, p2, p3, p4]) :
    (s.F q1).val + (s.F q2).val + (s.F q3).val + (s.F q4).val =
      (s.F p1).val + (s.F p2).val + (s.F p3).val + (s.F p4).val := by
  simpa [add_assoc] using (h.map fun r => (s.F r).val).sum_eq

/-- Settles O51: each average is a function of the operands' sum, and whether one of them is no byte depends on which
registers are named alone. -/
theorem averagesIgnoreOperandOrder : Obligations.AveragesIgnoreOperandOrder := by
  intro s rd p1 p2 p3 p4 q1 q2 q3 q4 hperm
  have hsum := operandSum_of_perm s hperm
  constructor
  · exact congrArg (fun v => Host.Outcome.next (s.setF rd v)) (fieldAverage_congr_sum hsum)
  · by_cases hp : ∀ r ∈ [p1, p2, p3, p4], (s.F r).val ≤ 255
    · have hq : ∀ r ∈ [q1, q2, q3, q4], (s.F r).val ≤ 255 := fun r hr => hp r (hperm.mem_iff.1 hr)
      refine ⟨_, _, exec_bavgp_of_bytes hq rd, exec_bavgp_of_bytes hp rd, fun r => ?_⟩
      rw [plainAverage_congr_sum hsum]
    · obtain ⟨r, hr, hgt⟩ : ∃ r ∈ [p1, p2, p3, p4], 255 < (s.F r).val := by
        simpa only [not_forall, not_le, exists_prop] using hp
      refine ⟨_, _, exec_bavgp_of_gt ⟨r, hperm.mem_iff.2 hr, hgt⟩ rd, exec_bavgp_of_gt ⟨r, hr, hgt⟩ rd, fun r => ?_⟩
      rw [State.F_recordError, State.F_recordError]

end Sys2Proof.Proofs
end

section
/-! The statements about the sum-of-absolute-differences accumulator (spec 45_sad.md). -/

namespace Sys2Proof.Proofs

open Sys2Proof.Machine Sys2Proof.Safety

/-! ### SADACC -/

theorem exec_sadacc_of_bytes {s : State} {rs1 rs2 : Reg} (h1 : (s.F rs1).val ≤ 255) (h2 : (s.F rs2).val ≤ 255) :
    exec (.sadacc rs1 rs2) s = .next (s.accumulate (absDiff (s.F rs1) (s.F rs2))) :=
  if_pos (by simp [h1, h2])

theorem exec_sadacc_of_gt {s : State} {rs1 rs2 : Reg} (h : 255 < (s.F rs1).val ∨ 255 < (s.F rs2).val) :
    exec (.sadacc rs1 rs2) s = s.raiseErr .range (encode (.sadacc rs1 rs2)) := by
  refine if_neg fun hb => ?_
  have hbytes : (s.F rs1).val ≤ 255 ∧ (s.F rs2).val ≤ 255 := by simpa using hb
  omega

/-- One more term of ACC leaves everything but ACC and ACC_OVF as it was (R170, R171). -/
theorem onlyAccumulates_accumulate (s : State) (d : Nat) : OnlyAccumulates d s (s.accumulate d) := by
  refine ⟨State.accumulate_toNat s d, State.accOvf_accumulate s d, State.F_accumulate s d, ?_⟩
  simp [SameOutside]

/-- Settles O34: two bytes take the accumulation of their absolute difference; the word of a SADACC with a larger operand
decodes to a command that errs. -/
theorem sadaccAccumulatesOrRaisesRange : Obligations.SadaccAccumulatesOrRaisesRange := by
  refine ⟨encodedAs_row .sadacc, fun s rs1 rs2 h1 h2 => ?_, fun s w hsel hgt => ?_⟩
  · exact ⟨_, exec_sadacc_of_bytes h1 h2, onlyAccumulates_accumulate s (absDiff (s.F rs1) (s.F rs2))⟩
  · have hd : decode w = .command (.sadacc (regAt w 20) (regAt w 17)) := (encodedAs_row .sadacc).1 w hsel
    exact executeWord_onlyRecordsError hd (exec_sadacc_of_gt hgt)

/-! ### ACCCLR -/

/-- Settles O35: ACCCLR is one write of ACC, with 0, and that write keeps every flag. -/
theorem accclrClearsTheAccumulatorOnly : Obligations.AccclrClearsTheAccumulatorOnly := by
  refine ⟨encodedAs_row .accclr, fun s => ⟨s.setAcc 0#32, rfl, State.acc_setAcc s _, State.F_setAcc s _, ?_⟩⟩
  simp [SameStatus, SameOutside]

end Sys2Proof.Proofs
end

section
/-! The statements about the reference host procedures (spec 48_host_procedures.md). -/

namespace Sys2Proof.Proofs

open Sys2Proof.Machine Sys2Proof.Safety

/-! ### The state a procedure works in -/

/-- The reset input released and no error recorded: what holds from a procedure's begin to its end (R182). -/
def Ready (s : State) : Prop := s.resetLine = false ∧ s.err = false

theorem Ready.resetLine {s : State} (h : Ready s) : s.resetLine = false := h.1

@[simp] theorem ready_setF (s : State) (r : Reg) (v : GF) : Ready (s.setF r v) ↔ Ready s := Iff.rfl
@[simp] theorem ready_setLastCmd (s : State) (w : Word) : Ready (s.setLastCmd w) ↔ Ready s := Iff.rfl
@[simp] theorem ready_setAcc (s : State) (w : Word) : Ready (s.setAcc w) ↔ Ready s := Iff.rfl
@[simp] theorem ready_accumulate (s : State) (d : Nat) : Ready (s.accumulate d) ↔ Ready s := Iff.rfl
@[simp] theorem ready_warnClampEvent (s : State) : Ready s.warnClampEvent ↔ Ready s := Iff.rfl
@[simp] theorem ready_logRead (s : State) (w : Word) : Ready (s.logRead w) ↔ Ready s := Iff.rfl

/-- The begin of a procedure makes any unit with the reset input released ready (R182). -/
theorem beginProcedure_ready {s : State} (hr : s.resetLine = false) :
    ∃ t, beginProcedure s = .next ((), t) ∧ Ready t ∧ t.accOvf = false ∧ t.clampCnt = 0#32 :=
  ⟨_, beginProcedure_eq hr, ⟨hr, rfl⟩, rfl, rfl⟩

/-- A ready unit ends a procedure with its output, and stays ready (R182). -/
theorem conclude_of_ready {α : Type} (v : α) (ws : List HostWarning) {s : State} (h : Ready s) :
    conclude v ws s = .done v ws (s.logRead s.statusWord) := conclude_of_no_error v ws h.1 h.2

/-- Issuing a command with an encoding runs it, then the later commands go on from its result (R55, R93). -/
theorem issueAll_cons_of_wellFormed {i : Instr} {s t : State} (hs : Ready s) (hw : i.wellFormed = true)
    (h : exec i (s.setLastCmd (encode i)) = .next t) (is : List Instr) :
    issueAll (i :: is) s = issueAll is t := issueAll_cons hs.1 (decode_encode hw) h

theorem byte_toNat_le (b : Byte) : b.toNat ≤ 255 := Nat.le_of_lt_succ b.isLt

/-- Every field element is an encodable immediate (R85). -/
theorem ldi_element_wellFormed (rd : Reg) (a : GF) : (Instr.ldi rd a.val).wellFormed = true :=
  ldi_wellFormed_iff.2 (by have := a.isLt; omega)

theorem issueAll_ldi_element {s : State} (hs : Ready s) (rd : Reg) (a : GF) (is : List Instr) :
    issueAll (.ldi rd a.val :: is) s = issueAll is ((s.setLastCmd (encode (.ldi rd a.val))).setF rd a) :=
  issueAll_cons_of_wellFormed hs (ldi_element_wellFormed rd a) (exec_ldi_element rd a _) is

theorem issueAll_ldi_byte {s : State} (hs : Ready s) (rd : Reg) (b : Byte) (is : List Instr) :
    issueAll (.ldi rd b.toNat :: is) s =
      issueAll is ((s.setLastCmd (encode (.ldi rd b.toNat))).setF rd (byteElement b)) :=
  issueAll_ldi_element hs rd (byteElement b) is

theorem issueAll_ldi_of_le {s : State} (hs : Ready s) (rd : Reg) {n : Nat} (hn : n ≤ 256) (is : List Instr) :
    issueAll (.ldi rd n :: is) s = issueAll is ((s.setLastCmd (encode (.ldi rd n))).setF rd (modP n)) := by
  have hval : (modP n).val = n := Nat.mod_eq_of_lt (Nat.lt_succ_of_le hn)
  simpa only [hval] using issueAll_ldi_element hs rd (modP n) is

/-- The byte the host reads after its commands, once the register's number is known (R63). -/
theorem computeByte_of_val {is : List Instr} {r : Reg} {s t : State} {n : Nat} (run : issueAll is s = .next ((), t))
    (ht : Ready t) (hn : (t.F r).val = n) :
    computeByte is r s = .next (BitVec.ofNat 8 n, t.logRead (BitVec.ofNat 32 n)) := by
  rw [computeByte_eq run ht.1, hn]

/-! ### One share (R185) -/

/-- Evaluating at x ≠ 0 loses nothing of the coefficient: the difference of two values is a multiple of x. -/
theorem horner_bijective (secret : GF) {x : GF} (hx : x ≠ 0) :
    Function.Bijective fun a1 : GF => horner secret a1 x := by
  refine Finite.injective_iff_bijective.1 fun a b h => asZMod_injective ?_
  have : Fact (Nat.Prime 257) := ⟨prime_P⟩
  have hx' : asZMod x ≠ 0 := fun e => hx (asZMod_injective (e.trans asZMod_zero.symm))
  have hval : asZMod (horner secret a x) = asZMod (horner secret b x) := congrArg asZMod h
  rw [asZMod_horner, asZMod_horner] at hval
  exact mul_right_cancel₀ hx' (add_right_cancel hval)

/-- The coefficients whose stored byte is b are as many as the field elements that truncate to b. -/
theorem card_coefficients_of_storedByte (secret : GF) {x : GF} (hx : x ≠ 0) (b : GF) :
    (Finset.univ.filter fun a1 : GF => truncateByte (horner secret a1 x) = b).card =
      (Finset.univ.filter fun v : GF => truncateByte v = b).card :=
  Finset.card_bijective _ (horner_bijective secret hx) (by simp)

/-- Only 0 and 256 truncate to 0 (R133). -/
theorem truncateByte_eq_zero_iff {v : GF} : truncateByte v = 0 ↔ v = 0 ∨ v = 256 := by
  have hv := v.isLt
  simp only [Fin.ext_iff, truncateByte_val, Fin.coe_ofNat_eq_mod]
  omega

/-- Only b itself truncates to a byte b other than 0 (R133). -/
theorem truncateByte_eq_iff {v b : GF} (h1 : 1 ≤ b.val) (h2 : b.val ≤ 255) : truncateByte v = b ↔ v = b := by
  have hv := v.isLt
  simp only [Fin.ext_iff, truncateByte_val]
  omega

/-- Settles O52: the coefficient and the share value determine each other, so the stored bytes are distributed as the
truncations of all field elements are, whatever the secret. -/
theorem oneShareRevealsNothing : Obligations.OneShareRevealsNothing := by
  intro secret x _ hx
  have hx0 : x ≠ 0 := by rintro rfl; exact absurd hx (by decide)
  refine ⟨horner_bijective secret hx0, ?_, fun b h1 h2 => ?_⟩
  · rw [card_coefficients_of_storedByte secret hx0]
    simp only [truncateByte_eq_zero_iff, Finset.filter_or, Finset.filter_eq']
    rfl
  · rw [card_coefficients_of_storedByte secret hx0]
    simp [truncateByte_eq_iff h1 h2, Finset.filter_eq']

/-! ### Share generation (R183, R184) -/

/-- The stored share byte of a secret byte at x: the share value, truncated. -/
def storedByte (secret : Byte) (a1 : GF) (x : Nat) : Byte := BitVec.ofNat 8 (shareValue secret a1 x % 256)

/-- The commands of one share at x, which leave its byte in F3 (R183). -/
def shareCommands (x : Nat) : List Instr := [.ldi 2 x, .peval 3 0 1 2, .btrunc 3 3]

/-- The unit is ready and holds a secret byte in F0 and its coefficient in F1. -/
def HoldsSecret (secret : Byte) (a1 : GF) (s : State) : Prop := Ready s ∧ s.F 0 = byteElement secret ∧ s.F 1 = a1

theorem issueAll_shareCommands {secret : Byte} {a1 : GF} {s : State} (h : HoldsSecret secret a1 s) (x : GF) :
    ∃ t, issueAll (shareCommands x.val) s = .next ((), t) ∧ HoldsSecret secret a1 t ∧
      (t.F 3).val = shareValue secret a1 x.val % 256 := by
  obtain ⟨hs, h0, h1⟩ := h
  refine ⟨?t, ?run, ?holds, ?value⟩
  case run =>
    rw [shareCommands, issueAll_ldi_element hs, issueAll_cons_of_wellFormed ?_ rfl rfl,
      issueAll_cons_of_wellFormed ?_ rfl rfl, issueAll_nil]
    all_goals simp [hs]
  case holds => simp [HoldsSecret, State.F_setF, hs, h0, h1]
  case value => simp [State.F_setF, h0, h1, shareValue, Nat.add_comm]

/-- The share byte at one coordinate. -/
theorem computeByte_share {secret : Byte} {a1 : GF} {s : State} (h : HoldsSecret secret a1 s) (x : GF) :
    ∃ t, computeByte (shareCommands x.val) 3 s = .next (storedByte secret a1 x.val, t) ∧
      HoldsSecret secret a1 t := by
  obtain ⟨t, run, hholds, hval⟩ := issueAll_shareCommands h x
  exact ⟨_, computeByte_of_val run hholds.1 hval, hholds⟩

theorem issueAll_secret (secret : Byte) (a1 : GF) {s : State} (hs : Ready s) :
    ∃ t, issueAll [.ldi 0 secret.toNat, .ldi 1 a1.val] s = .next ((), t) ∧ HoldsSecret secret a1 t := by
  refine ⟨_, by rw [issueAll_ldi_byte hs, issueAll_ldi_element (by simpa using hs), issueAll_nil], ?_⟩
  simp [HoldsSecret, State.F_setF, hs]

theorem shareByte_eq (secret : Byte) (a1 : GF) {s : State} (hs : Ready s) :
    ∃ t, shareByte secret a1 s = .next ([1, 2, 3].map (storedByte secret a1), t) ∧ Ready t := by
  obtain ⟨u, hu, hholds⟩ := issueAll_secret secret a1 hs
  obtain ⟨t, ht, hready, -⟩ := computeBytes_next (fun _ => HoldsSecret secret a1) 3
    (fun x : GF => shareCommands x.val) (fun x => storedByte secret a1 x.val) (fun _ => 0)
    (fun x _ _ h => computeByte_share h x) [1, 2, 3] 0 u hholds
  exact ⟨t, by rw [shareByte, hu]; exact ht, hready⟩

/-- The rows of share bytes, one for each position from i on. -/
theorem generateLoop_eq (rng : Nat → GF) :
    ∀ (secret : List Byte) (i : Nat) {s : State}, Ready s →
      ∃ t, generateLoop rng secret i s =
        .next (secret.mapIdx fun j b => [1, 2, 3].map (storedByte b (rng (i + j))), t) ∧ Ready t
  | [], _, s, hs => ⟨s, rfl, hs⟩
  | b :: bs, i, s, hs => by
    obtain ⟨t, ht, hready⟩ := shareByte_eq b (rng i) hs
    obtain ⟨u, hu, hready'⟩ := generateLoop_eq rng bs (i + 1) hready
    exact ⟨u, by simp [generateLoop, ht, hu, List.mapIdx_cons, Nat.add_assoc, Nat.add_comm 1], hready'⟩

/-- The share of a secret at x. -/
def shareAt (secret : List Byte) (rng : Nat → GF) (x : Nat) : List Byte :=
  secret.mapIdx fun i b => storedByte b (rng i) x

theorem generate_eq (secret : List Byte) (rng : Nat → GF) {s : State} (hr : s.resetLine = false) :
    ∃ u, generate secret 3 2 rng s = .done ([1, 2, 3].map fun x => (x, shareAt secret rng x)) [] u ∧ Ready u := by
  obtain ⟨t, ht, hready, -⟩ := beginProcedure_ready hr
  obtain ⟨v, hv, hready'⟩ := generateLoop_eq rng secret 0 hready
  refine ⟨v.logRead v.statusWord, ?_, by simpa using hready'⟩
  simp [generate, Config.K, Config.N, ht, hv, conclude_of_ready _ _ hready', List.range_succ, shareColumn, shareAt,
    List.mapIdx_eq_zipIdx_map]

/-- Settles O53: the rows of the loop, read by columns, are the shares; the wrong k or n ends the procedure at its first
checks. -/
theorem generateStoresTheTruncatedShareValues : Obligations.GenerateStoresTheTruncatedShareValues := by
  refine ⟨fun secret rng s hr => ?_, fun secret n k rng s h => ?_⟩
  · obtain ⟨u, hu, -, herr⟩ := generate_eq secret rng hr
    exact ⟨u, hu, herr⟩
  · by_cases hk : k = 2
    · exact ⟨.badShareNumber, by simp [generate, Config.K, Config.N, hk, h.resolve_left (not_not.2 hk)]⟩
    · exact ⟨.badThreshold, by simp [generate, Config.K, hk]⟩

/-! ### Reconstruction (R186, R187) -/

/-- Two distinct x-coordinates of shares (R186). -/
def SharePair (x1 x2 : Nat) : Prop := x1 ≠ x2 ∧ (1 ≤ x1 ∧ x1 ≤ 3) ∧ (1 ≤ x2 ∧ x2 ≤ 3)

theorem SharePair.symm {x1 x2 : Nat} (h : SharePair x1 x2) : SharePair x2 x1 := ⟨h.1.symm, h.2.2, h.2.1⟩

theorem SharePair.modP_ne {x1 x2 : Nat} (h : SharePair x1 x2) : modP x1 ≠ modP x2 := by
  obtain ⟨hne, h1, h2⟩ := h
  rw [Ne, Fin.ext_iff, modP_val, modP_val]
  omega

/-- LAGC of a share pair computes the coefficient of R142's table. -/
theorem SharePair.lagrangeBasis_val {x1 x2 : Nat} (h : SharePair x1 x2) :
    (lagrangeBasis (modP x1) (modP x2)).val = shareBasis x1 x2 := by
  obtain ⟨hne, h1, h2⟩ := h
  exact lagrangeCoefficientsOfTheSharePairs.1 x1 (by simp; omega) x2 (by simp; omega) hne

/-- The unit is ready, holds the coefficients of a share pair in F2 and F3, and has counted n clamped positions. -/
def HoldsBasis (x1 x2 n : Nat) (s : State) : Prop :=
  Ready s ∧ (s.F 2).val = shareBasis x1 x2 ∧ (s.F 3).val = shareBasis x2 x1 ∧ s.clampCnt.toNat = min n (2 ^ 32 - 1)

theorem issueAll_coefficientCommands {x1 x2 : Nat} (h : SharePair x1 x2) {s : State} (hs : Ready s)
    (hc : s.clampCnt = 0#32) :
    ∃ t, issueAll (coefficientCommands x1 x2) s = .next ((), t) ∧ HoldsBasis x1 x2 0 t := by
  have hne := h.modP_ne
  have hx : x1 ≤ 256 ∧ x2 ≤ 256 := by obtain ⟨-, h1, h2⟩ := h; omega
  refine ⟨?t, ?run, ?holds⟩
  case run =>
    rw [coefficientCommands, issueAll_ldi_of_le hs 0 hx.1, issueAll_ldi_of_le ?_ 1 hx.2,
      issueAll_cons_of_wellFormed ?_ rfl (exec_lagc_of_ne ?_ 2),
      issueAll_cons_of_wellFormed ?_ rfl (exec_lagc_of_ne ?_ 3), issueAll_nil]
    all_goals simp [State.F_setF, hs, hne, hne.symm]
  case holds => simp [HoldsBasis, State.F_setF, hs, hc, h.lagrangeBasis_val, h.symm.lagrangeBasis_val]

theorem issueAll_lintCommands {x1 x2 n : Nat} {s : State} (h : HoldsBasis x1 x2 n s) (y1 y2 : Byte)
    (is : List Instr) :
    ∃ t, issueAll (.ldi 4 y1.toNat :: .ldi 5 y2.toNat :: .lint 6 4 2 5 3 :: is) s = issueAll is t ∧
      HoldsBasis x1 x2 n t ∧ (t.F 6).val = rawValue x1 x2 y1 y2 := by
  obtain ⟨hs, h2, h3, hc⟩ := h
  refine ⟨?t, ?run, ?holds, ?value⟩
  case run =>
    rw [issueAll_ldi_byte hs, issueAll_ldi_byte (by simpa using hs), issueAll_cons_of_wellFormed ?_ rfl rfl]
    simp [hs]
  case holds => simp [HoldsBasis, State.F_setF, hs, h2, h3, hc]
  case value => simp [State.F_setF, h2, h3, rawValue]

/-- BCLMP passes a byte, and counts the one value it clamps. -/
theorem issueAll_bclmp {x1 x2 n : Nat} {s : State} (h : HoldsBasis x1 x2 n s) :
    ∃ t, issueAll [.bclmp 6 6] s = .next ((), t) ∧ HoldsBasis x1 x2 (n + if (s.F 6).val = 256 then 1 else 0) t ∧
      (t.F 6).val = min (s.F 6).val 255 := by
  obtain ⟨hs, h2, h3, hc⟩ := h
  have hlt := (s.F 6).isLt
  by_cases hv : (s.F 6).val = 256
  · have hcount : min (min n (2 ^ 32 - 1) + 1) (2 ^ 32 - 1) = min (n + 1) (2 ^ 32 - 1) := by omega
    refine ⟨_, issueAll_cons_of_wellFormed hs rfl (exec_bclmp_clamps 6 (by simp [hv])) [], ?_, by simp [hv]⟩
    simpa [HoldsBasis, State.F_setF, hs, h2, h3, saturatingSucc_toNat, hc, hv] using hcount
  · refine ⟨_, issueAll_cons_of_wellFormed hs rfl (exec_bclmp_of_byte (by simp; omega) 6) [], ?_, by simp; omega⟩
    simp [HoldsBasis, State.F_setF, hs, h2, h3, hc, hv]

/-- The byte of one position, and what it adds to the count of clamped positions. -/
theorem computeByte_reconstruct {x1 x2 n : Nat} {s : State} (h : HoldsBasis x1 x2 n s) (y1 y2 : Byte) :
    ∃ t, computeByte (reconstructCommands y1 y2) 6 s =
        .next (BitVec.ofNat 8 (min (rawValue x1 x2 y1 y2) 255), t) ∧
      HoldsBasis x1 x2 (n + if rawValue x1 x2 y1 y2 = 256 then 1 else 0) t := by
  obtain ⟨t, ht, hholds, hraw⟩ := issueAll_lintCommands h y1 y2 [.bclmp 6 6]
  obtain ⟨u, hu, hholds', hval⟩ := issueAll_bclmp hholds
  rw [hraw] at hholds' hval
  exact ⟨_, computeByte_of_val (ht.trans hu) hholds'.1 hval, hholds'⟩

theorem sum_map_ite_eq_count {α : Type} (f : α → Nat) (v : Nat) (xs : List α) :
    (xs.map fun a => if f a = v then 1 else 0).sum = (xs.map f).count v := by
  induction xs with
  | nil => rfl
  | cons a xs ih => simp [List.count_cons, ih, Nat.add_comm]

/-- The loop over the positions of two shares. -/
theorem computeBytes_reconstruct {x1 x2 : Nat} {s : State} (h : HoldsBasis x1 x2 0 s) (ys1 ys2 : List Byte) :
    ∃ t, computeBytes 6 (List.zipWith reconstructCommands ys1 ys2) s =
        .next (List.zipWith (fun y1 y2 => BitVec.ofNat 8 (min (rawValue x1 x2 y1 y2) 255)) ys1 ys2, t) ∧
      HoldsBasis x1 x2 ((List.zipWith (rawValue x1 x2) ys1 ys2).count 256) t := by
  have hloop := computeBytes_next (HoldsBasis x1 x2) 6 (fun p : Byte × Byte => reconstructCommands p.1 p.2)
    (fun p => BitVec.ofNat 8 (min (rawValue x1 x2 p.1 p.2) 255))
    (fun p => if rawValue x1 x2 p.1 p.2 = 256 then 1 else 0)
    (fun p _ _ h => computeByte_reconstruct h p.1 p.2) (ys1.zip ys2) 0 s h
  rw [sum_map_ite_eq_count (fun p : Byte × Byte => rawValue x1 x2 p.1 p.2), Nat.zero_add] at hloop
  simp only [List.map_zip_eq_zipWith] at hloop
  exact hloop

/-- The host's warning from a saturated count (R187). -/
theorem clampWarnings_of_count {count : Word} {n : Nat} (h : count.toNat = min n (2 ^ 32 - 1)) :
    clampWarnings count = if n = 0 then [] else [.clamped (min n (2 ^ 32 - 1))] := by
  have hzero : count = 0#32 ↔ n = 0 := by simp [BitVec.toNat_eq, h]
  simp only [clampWarnings, hzero, h]

theorem reconstruct_eq {x1 x2 : Nat} (h : SharePair x1 x2) {ys1 ys2 : List Byte} (hlen : ys1.length = ys2.length)
    {s : State} (hr : s.resetLine = false) {n : Nat} (hn : n = (List.zipWith (rawValue x1 x2) ys1 ys2).count 256) :
    ∃ u, reconstruct [(x1, ys1), (x2, ys2)] s = .done
      (List.zipWith (fun y1 y2 => BitVec.ofNat 8 (min (rawValue x1 x2 y1 y2) 255)) ys1 ys2)
      (if n = 0 then [] else [.clamped (min n (2 ^ 32 - 1))]) u := by
  obtain ⟨t, ht, hready, -, hc⟩ := beginProcedure_ready hr
  obtain ⟨u, hu, hbasis⟩ := issueAll_coefficientCommands h hready hc
  obtain ⟨v, hv, hready', -, -, hcount⟩ := computeBytes_reconstruct hbasis ys1 ys2
  have hread : readWord 0x18 v = .next (v.clampCnt, v.logRead v.clampCnt) :=
    readWord_eq hready'.1 (by decide) (by decide)
  obtain ⟨hne, h1, h2⟩ := h
  refine ⟨?u, ?run⟩
  case run =>
    simp only [reconstruct, hlen, hne, (isShareCoordinate_iff _).2 h1, (isShareCoordinate_iff _).2 h2, ne_eq,
      not_true_eq_false, if_false, Bool.and_self, Bool.not_true, Bool.false_eq_true, ht, hu, hv, hread, andThen_next,
      endWith_next, clampWarnings_of_count hcount, hn]
    exact conclude_of_ready _ _ ((ready_logRead _ _).2 hready')

/-- Settles O54: the coefficients of the pair stay in their registers while each position is interpolated and clamped;
a list that is no share pair ends the procedure at one of its checks. -/
theorem reconstructInterpolatesAndClamps : Obligations.ReconstructInterpolatesAndClamps := by
  refine ⟨fun x1 x2 ys1 ys2 s hr hlen hne h1 h1' h2 h2' => ?_, fun shares s h => ?_⟩
  · obtain ⟨u, hu⟩ := reconstruct_eq ⟨hne, ⟨h1, h1'⟩, ⟨h2, h2'⟩⟩ hlen hr rfl
    exact ⟨u, _, rfl, hu⟩
  · unfold reconstruct
    split
    next x1 ys1 x2 ys2 =>
      split_ifs with hlen hx hrange
      · exact ⟨_, rfl⟩
      · exact ⟨_, rfl⟩
      · exact ⟨_, rfl⟩
      · have hin : (1 ≤ x1 ∧ x1 ≤ 3) ∧ 1 ≤ x2 ∧ x2 ≤ 3 := by simpa [isShareCoordinate_iff] using hrange
        exact absurd (h x1 ys1 x2 ys2 rfl) (by simp only [not_or, not_not]; exact ⟨not_not.1 hlen, hx, hin⟩)
    next => exact ⟨_, rfl⟩

/-! ### The round trip (R188) -/

/-- A share of 256 is stored as 0: its value is lost (R188). -/
theorem storedByte_toNat_of_lost {secret : Byte} {a1 : GF} {x : Nat} (h : shareValue secret a1 x = 256) :
    (storedByte secret a1 x).toNat = 0 := by
  simp [storedByte, h]

theorem storedByte_toNat_of_kept {secret : Byte} {a1 : GF} {x : Nat} (h : shareValue secret a1 x ≠ 256) :
    (storedByte secret a1 x).toNat = shareValue secret a1 x := by
  have hlt : shareValue secret a1 x < 257 := Nat.mod_lt _ (by decide)
  simp only [storedByte, BitVec.toNat_ofNat]
  omega

/-- The untruncated share values of a pair interpolate to the secret (R145). -/
theorem interpolate_shareValues {x1 x2 : Nat} (h : SharePair x1 x2) (secret : Byte) (a1 : GF) :
    (shareValue secret a1 x1 * shareBasis x1 x2 + shareValue secret a1 x2 * shareBasis x2 x1) % 257 =
      secret.toNat := by
  have hval := congrArg Fin.val (interpolate_horner h.modP_ne (byteElement secret) a1)
  simp only [interpolate_val, horner_val, h.lagrangeBasis_val, h.symm.lagrangeBasis_val, modP_val,
    byteElement_val] at hval
  have hshare : ∀ x, (a1.val * (x % 257) + secret.toNat) % 257 = shareValue secret a1 x := fun x => by
    simp [shareValue, Nat.add_comm, Nat.add_mod, Nat.mul_mod]
  simpa only [hshare] using hval

/-- The coefficients of a pair sum to 1 (R140). -/
theorem shareBasis_add {x1 x2 : Nat} (h : SharePair x1 x2) : (shareBasis x1 x2 + shareBasis x2 x1) % 257 = 1 := by
  simpa [shareValue] using interpolate_shareValues h 1#8 0

/-- Not both shares of a pair are lost: they would lie on the constant polynomial 256, and the secret is a byte. -/
theorem not_both_shares_lost {x1 x2 : Nat} (h : SharePair x1 x2) {secret : Byte} {a1 : GF}
    (h1 : shareValue secret a1 x1 = 256) : shareValue secret a1 x2 ≠ 256 := by
  intro h2
  have hint := interpolate_shareValues h secret a1
  have hsum := shareBasis_add h
  have hs := secret.isLt
  rw [h1, h2] at hint
  omega

/-- Leaving out the term of a lost share, whose value 256 is -1, adds its coefficient b to the interpolated value. -/
theorem mod_of_lost_term {b p n : Nat} (h : (256 * b + p) % 257 = n) : p % 257 = (n + b) % 257 := by
  omega

/-- What reconstruction gives at a position: the secret, plus the coefficient of a lost share (R188). -/
def recoveredValue (x1 x2 : Nat) (secret : Byte) (a1 : GF) : Nat :=
  if shareValue secret a1 x1 = 256 then (secret.toNat + shareBasis x1 x2) % 257
  else if shareValue secret a1 x2 = 256 then (secret.toNat + shareBasis x2 x1) % 257
  else secret.toNat

theorem rawValue_storedByte {x1 x2 : Nat} (h : SharePair x1 x2) (secret : Byte) (a1 : GF) :
    rawValue x1 x2 (storedByte secret a1 x1) (storedByte secret a1 x2) = recoveredValue x1 x2 secret a1 := by
  have hint := interpolate_shareValues h secret a1
  unfold rawValue recoveredValue
  split_ifs with h1 h2
  · rw [storedByte_toNat_of_lost h1, storedByte_toNat_of_kept (not_both_shares_lost h h1), Nat.zero_mul, Nat.zero_add]
    rw [h1] at hint
    exact mod_of_lost_term hint
  · rw [storedByte_toNat_of_kept h1, storedByte_toNat_of_lost h2, Nat.zero_mul, Nat.add_zero]
    rw [h2, Nat.add_comm] at hint
    exact mod_of_lost_term hint
  · rw [storedByte_toNat_of_kept h1, storedByte_toNat_of_kept h2, hint]

theorem zipWith_shareAt {α : Type} (f : Byte → Byte → α) (secret : List Byte) (rng : Nat → GF) (x1 x2 : Nat) :
    List.zipWith f (shareAt secret rng x1) (shareAt secret rng x2) =
      secret.mapIdx fun i b => f (storedByte b (rng i) x1) (storedByte b (rng i) x2) :=
  List.ext_getElem (by simp [shareAt]) (by simp [shareAt])

/-- A byte passes the clamp. -/
theorem ofNat_min_toNat (b : Byte) : BitVec.ofNat 8 (min b.toNat 255) = b := by
  rw [Nat.min_eq_left (byte_toNat_le b), BitVec.ofNat_toNat, BitVec.setWidth_eq]

/-- The recovered value, clamped to a byte, in the cases of R188. -/
theorem ofNat_min_recoveredValue (x1 x2 : Nat) (secret : Byte) (a1 : GF) :
    BitVec.ofNat 8 (min (recoveredValue x1 x2 secret a1) 255) =
      if shareValue secret a1 x1 = 256 then BitVec.ofNat 8 (min ((secret.toNat + shareBasis x1 x2) % 257) 255)
      else if shareValue secret a1 x2 = 256 then BitVec.ofNat 8 (min ((secret.toNat + shareBasis x2 x1) % 257) 255)
      else secret := by
  unfold recoveredValue
  split_ifs
  · rfl
  · rfl
  · exact ofNat_min_toNat secret

/-- Settles O55: each position is interpolated from its stored bytes to the recovered value, which is the secret where
no share was lost; a secret is a byte, so nothing is then clamped. -/
theorem roundTripIsExactUnlessAShareWasLost : Obligations.RoundTripIsExactUnlessAShareWasLost := by
  intro secret rng s x1 x2 hr hne h1 h1' h2 h2'
  have h : SharePair x1 x2 := ⟨hne, ⟨h1, h1'⟩, ⟨h2, h2'⟩⟩
  obtain ⟨u, hu, hready⟩ := generate_eq secret rng hr
  obtain ⟨v, hv⟩ := reconstruct_eq h (ys1 := shareAt secret rng x1) (ys2 := shareAt secret rng x2) (by simp [shareAt])
    hready.resetLine rfl
  simp only [zipWith_shareAt, rawValue_storedByte h] at hv
  refine ⟨shareAt secret rng, u, v, _, _, hu, hv, ?_, fun hkept => ?_⟩
  · simp only [ofNat_min_recoveredValue]
  have hrec : ∀ i b, secret[i]? = some b → recoveredValue x1 x2 b (rng i) = b.toNat := fun i b hb => by
    obtain ⟨hk1, hk2⟩ := hkept i b hb
    rw [recoveredValue, if_neg hk1, if_neg hk2]
  constructor
  · refine List.mapIdx_eq_iff.2 fun i => ?_
    cases hb : secret[i]? with
    | none => rfl
    | some b => simp [hrec i b hb, ofNat_min_toNat]
  · refine if_pos (List.count_eq_zero.2 fun hmem => ?_)
    obtain ⟨i, hi, hclamp⟩ := List.mem_mapIdx.1 hmem
    rw [hrec i secret[i] (List.getElem?_eq_getElem hi)] at hclamp
    exact absurd hclamp (Nat.ne_of_lt (secret[i]).isLt)

/-! ### The places of a raster (R191) -/

/-- Rows of one length, laid end to end: the element at column j of row i. -/
theorem getElem?_flatMap_range {α : Type} {f : Nat → List α} {m : Nat} (hf : ∀ i, (f i).length = m) {n i j : Nat}
    (hi : i < n) (hj : j < m) : ((List.range n).flatMap f)[i * m + j]? = (f i)[j]? := by
  induction n with
  | zero => exact absurd hi (Nat.not_lt_zero i)
  | succ n ih =>
    have hlen : ((List.range n).flatMap f).length = n * m := by simp [List.length_flatMap, hf]
    rw [List.range_succ, List.flatMap_append, List.flatMap_singleton]
    obtain hlt | rfl := Nat.lt_succ_iff_lt_or_eq.1 hi
    · have hle : (i + 1) * m ≤ n * m := Nat.mul_le_mul_right m hlt
      rw [List.getElem?_append_left (by rw [hlen]; rw [Nat.add_one_mul] at hle; omega)]
      exact ih hlt
    · rw [List.getElem?_append_right (by rw [hlen]; omega), hlen, Nat.add_sub_cancel_left]

/-- The places stand in the order of their bytes: channel c of pixel (ox, oy) at `oy·3·(W/2) + 3·ox + c`. -/
theorem getElem?_places (r : RasterShape) {ox oy c : Nat} (hx : ox < r.width / 2) (hy : oy < r.height / 2)
    (hc : c < 3) :
    r.places[oy * (3 * (r.width / 2)) + (3 * ox + c)]? = some (oy, ox, c) := by
  rw [RasterShape.places, getElem?_flatMap_range (fun _ => by simp [List.length_flatMap, Nat.mul_comm]) hy (by omega),
    Nat.mul_comm 3 ox, getElem?_flatMap_range (fun _ => by simp) hx hc]
  simp [hc]

/-- The byte at a column of a row of the output: an averaged byte in the pixels, else padding. -/
theorem getElem?_layOut (r : RasterShape) (bytes : List Byte) (padding : Nat → Byte) {row col : Nat}
    (hrow : row < r.height / 2) (hcol : col < r.outStride) :
    (r.layOut bytes padding)[row * r.outStride + col]? =
      some (if col < 3 * (r.width / 2) then bytes.getD (row * (3 * (r.width / 2)) + col) 0
        else padding (row * r.outStride + col)) := by
  have hle : (row + 1) * r.outStride ≤ r.height / 2 * r.outStride := Nat.mul_le_mul_right _ hrow
  have hlt : row * r.outStride + col < r.height / 2 * r.outStride := by rw [Nat.add_one_mul] at hle; omega
  have hdiv : (row * r.outStride + col) / r.outStride = row := by
    rw [Nat.mul_comm, Nat.mul_add_div (by omega), Nat.div_eq_of_lt hcol, Nat.add_zero]
  have hmod : (row * r.outStride + col) % r.outStride = col := by
    rw [Nat.mul_add_mod', Nat.mod_eq_of_lt hcol]
  rw [RasterShape.layOut, List.getElem?_map, List.getElem?_range hlt, Option.map_some]
  simp only [hdiv, hmod]

/-- Laying out one byte for each place in order puts every channel where R191 says. -/
theorem laidOut_layOut {r : RasterShape} (hs : 3 * (r.width / 2) ≤ r.outStride) (value : Nat → Nat → Nat → Nat)
    (padding : Nat → Byte) :
    LaidOut r value padding
      (r.layOut (r.places.map fun p => BitVec.ofNat 8 (value p.2.1 p.1 p.2.2)) padding) := by
  refine ⟨by simp [RasterShape.layOut], fun ox oy c hx hy hc => ?_, fun oy col hy hpad hcol => ?_⟩
  · rw [Nat.add_assoc, getElem?_layOut r _ padding hy (by omega), if_pos (by omega), List.getD_eq_getElem?_getD,
      List.getElem?_map, getElem?_places r hx hy hc]
    rfl
  · rw [getElem?_layOut r _ padding hy hcol, if_neg (by omega)]

/-! ### The preconditions of a downscale (R189, R193) -/

theorem problem_eq_none {r : RasterShape} {payload : List Byte} (h : RasterOk r payload) :
    r.problem payload = none := by
  obtain ⟨hbpp, hw, hh, hlen, hstride, hout⟩ := h
  simp [RasterShape.problem, hbpp, hw, hh, Nat.not_lt.2 hlen, Nat.not_lt.2 hstride, Nat.not_lt.2 hout]

/-- A raster unfit by R189 fails one of the checks. -/
theorem problem_of_unfit {r : RasterShape} {payload : List Byte}
    (h : r.bitsPerPixel ≠ 24 ∨ r.width % 2 = 1 ∨ r.height % 2 = 1 ∨ payload.length < r.height * r.stride) :
    ∃ e, r.problem payload = some e := by
  unfold RasterShape.problem
  split_ifs with hbpp hodd hstride hlen
  · exact ⟨_, rfl⟩
  · exact ⟨_, rfl⟩
  · exact ⟨_, rfl⟩
  · exact ⟨_, rfl⟩
  · omega

theorem downscale_of_problem {r : RasterShape} {payload : List Byte} {e : HostError} (h : r.problem payload = some e)
    (average : List Instr) (padding : Nat → Byte) (s : State) :
    downscale average r payload padding s = .fatal e s := by
  simp [downscale, h]

/-! ### The blocks of a downscale (R190 to R192) -/

/-- The unit is ready and holds the four bytes of a block in F0 to F3. -/
def HoldsBlock (r : RasterShape) (payload : List Byte) (ox oy c : Nat) (s : State) : Prop :=
  Ready s ∧ (s.F 0).val = blockByte r payload ox oy c 0 0 ∧ (s.F 1).val = blockByte r payload ox oy c 1 0 ∧
  (s.F 2).val = blockByte r payload ox oy c 0 1 ∧ (s.F 3).val = blockByte r payload ox oy c 1 1

theorem issueAll_blockLoads (r : RasterShape) (payload : List Byte) (ox oy c : Nat) (is : List Instr) {s : State}
    (hs : Ready s) :
    ∃ t, issueAll (blockLoads r payload ox oy c ++ is) s = issueAll is t ∧ HoldsBlock r payload ox oy c t := by
  refine ⟨?t, ?run, ?holds⟩
  case run =>
    simp only [blockLoads, List.cons_append, List.nil_append]
    rw [issueAll_ldi_byte hs, issueAll_ldi_byte ?_, issueAll_ldi_byte ?_, issueAll_ldi_byte ?_]
    all_goals simp [hs]
  case holds => simp [HoldsBlock, State.F_setF, hs, blockByte, RasterShape.index]

theorem blockByte_le (r : RasterShape) (payload : List Byte) (ox oy c dx dy : Nat) :
    blockByte r payload ox oy c dx dy ≤ 255 := byte_toNat_le _

/-- BAVGF and BTRUNC average a block as R191 says. -/
theorem issueAll_fieldAverage {r : RasterShape} {payload : List Byte} {ox oy c : Nat} {s : State}
    (h : HoldsBlock r payload ox oy c s) :
    ∃ t, issueAll [.bavgf 4 0 1 2 3, .btrunc 4 4] s = .next ((), t) ∧ Ready t ∧
      (t.F 4).val = blockSum r payload ox oy c * 193 % 257 % 256 := by
  obtain ⟨hs, h0, h1, h2, h3⟩ := h
  refine ⟨?t, ?run, ?ready, ?value⟩
  case run =>
    rw [issueAll_cons_of_wellFormed hs rfl rfl, issueAll_cons_of_wellFormed ?_ rfl rfl, issueAll_nil]
    simp [hs]
  case ready => simp [hs]
  case value => simp [h0, h1, h2, h3, blockSum]

/-- BAVGP averages a block as R192 says: its operands are bytes, so it does not err. -/
theorem issueAll_plainAverage {r : RasterShape} {payload : List Byte} {ox oy c : Nat} {s : State}
    (h : HoldsBlock r payload ox oy c s) :
    ∃ t, issueAll [.bavgp 4 0 1 2 3] s = .next ((), t) ∧ Ready t ∧ (t.F 4).val = blockSum r payload ox oy c / 4 := by
  obtain ⟨hs, h0, h1, h2, h3⟩ := h
  have hle := blockByte_le r payload ox oy c
  refine ⟨_, issueAll_cons_of_wellFormed hs rfl (exec_bavgp_of_bytes (by simp [h0, h1, h2, h3, hle]) 4) [], hs, ?_⟩
  rw [State.F_setF_self, plainAverage_val] <;> simp [h0, h1, h2, h3, hle, blockSum]

/-- The loop both downscales share lays out the values its averaging commands give. -/
theorem downscale_laidOut {r : RasterShape} {payload : List Byte} (hok : RasterOk r payload) {average : List Instr}
    {value : Nat → Nat → Nat → Nat}
    (haverage : ∀ {ox oy c : Nat} {s : State}, HoldsBlock r payload ox oy c s →
      ∃ t, issueAll average s = .next ((), t) ∧ Ready t ∧ (t.F 4).val = value ox oy c)
    (padding : Nat → Byte) {s : State} (hr : s.resetLine = false) :
    ∃ out u, downscale average r payload padding s = .done out [] u ∧ LaidOut r value padding out := by
  have hstep : ∀ (p : Nat × Nat × Nat) (_ : Nat) (s : State), Ready s →
      ∃ t, computeByte (blockLoads r payload p.2.1 p.1 p.2.2 ++ average) 4 s =
        .next (BitVec.ofNat 8 (value p.2.1 p.1 p.2.2), t) ∧ Ready t := fun p _ s hs => by
    obtain ⟨t, ht, hblock⟩ := issueAll_blockLoads r payload p.2.1 p.1 p.2.2 average hs
    obtain ⟨u, hu, hready, hval⟩ := haverage hblock
    exact ⟨_, computeByte_of_val (ht.trans hu) hready hval, hready⟩
  obtain ⟨t, ht, hready, -⟩ := beginProcedure_ready hr
  obtain ⟨u, hu, hready'⟩ := computeBytes_next (fun _ => Ready) 4 _ _ (fun _ => 0) hstep r.places 0 t hready
  have hout : 3 * (r.width / 2) ≤ r.outStride := by obtain ⟨-, -, -, -, -, hout⟩ := hok; exact hout
  refine ⟨_, u.logRead u.statusWord, ?_, laidOut_layOut hout value padding⟩
  simp only [downscale, problem_eq_none hok, ht, hu, andThen_next, endWith_next, conclude_of_ready _ _ hready']

/-- Settles O56: both downscales are the one loop with their averaging commands, and an unfit raster fails a check
before any access. -/
theorem downscalesAverageEveryBlock : Obligations.DownscalesAverageEveryBlock := by
  refine ⟨fun r payload padding s hr hok => ?_, fun r payload padding s hunfit => ?_⟩
  · exact ⟨downscale_laidOut hok issueAll_fieldAverage padding hr,
      downscale_laidOut hok issueAll_plainAverage padding hr⟩
  · obtain ⟨e, he⟩ := problem_of_unfit hunfit
    exact ⟨⟨e, downscale_of_problem he _ padding s⟩, e, downscale_of_problem he _ padding s⟩

/-! ### The sum of absolute errors (R195 to R197) -/

/-- The unit is ready, with n in ACC and no wrap recorded. -/
def HoldsSum (n : Nat) (s : State) : Prop := Ready s ∧ s.accOvf = false ∧ s.acc.toNat = n

theorem byteDistance_le (p : Byte × Byte) : byteDistance p ≤ 255 := by
  have h1 := byte_toNat_le p.1
  have h2 := byte_toNat_le p.2
  unfold byteDistance
  omega

/-- One pair of bytes adds its distance to ACC, which does not wrap while 255 more fit in it. -/
theorem issueAll_saeCommands {n : Nat} {s : State} (h : HoldsSum n s) (hn : n + 255 < 2 ^ 32) (a b : Byte) :
    ∃ t, issueAll (saeCommands a b) s = .next ((), t) ∧ HoldsSum (n + byteDistance (a, b)) t := by
  obtain ⟨hs, hovf, hacc⟩ := h
  have hlt : n + byteDistance (a, b) < 2 ^ 32 := Nat.lt_of_le_of_lt (Nat.add_le_add_left (byteDistance_le _) n) hn
  refine ⟨?t, ?run, ?holds⟩
  case run =>
    rw [saeCommands, issueAll_ldi_byte hs, issueAll_ldi_byte ?_,
      issueAll_cons_of_wellFormed ?_ rfl (exec_sadacc_of_bytes ?_ ?_), issueAll_nil]
    all_goals simp [State.F_setF, hs, byte_toNat_le]
  case holds =>
    have hd : absDiff (byteElement a) (byteElement b) = byteDistance (a, b) := rfl
    simpa [HoldsSum, State.F_setF, hs, hovf, hacc, hd, accWraps] using hlt

theorem issueAll_accclr {s : State} (hs : Ready s) (hovf : s.accOvf = false) :
    ∃ t, issueAll [.accclr] s = .next ((), t) ∧ HoldsSum 0 t :=
  ⟨(s.setLastCmd (encode .accclr)).setAcc 0#32, issueAll_cons_of_wellFormed hs rfl rfl [], hs, hovf, rfl⟩

theorem readWord_acc {s : State} (hs : Ready s) : readWord 0x10 s = .next (s.acc, s.logRead s.acc) :=
  readWord_eq hs.1 (by decide) (by decide)

/-- The loop gives its total, what ACC holds and the distances still to come. Since the last fold at most
`255 · (i mod foldEvery)` was accumulated, and `255 · foldEvery = 2^32 − 1`, so ACC never wraps (R171, R197). -/
theorem saeLoop_eq :
    ∀ (pairs : List (Byte × Byte)) (i total : Nat) {n : Nat} {s : State}, HoldsSum n s → n ≤ 255 * (i % foldEvery) →
      ∃ u, saeLoop pairs i total s = .next (total + n + (pairs.map byteDistance).sum, u) ∧ Ready u ∧ u.accOvf = false
  | [], i, total, n, s, ⟨hs, hovf, hacc⟩, _ => ⟨s.logRead s.acc, by simp [saeLoop, readWord_acc hs, hacc], hs, hovf⟩
  | (a, b) :: rest, i, total, n, s, h, hn => by
    have hi : i % foldEvery < foldEvery := Nat.mod_lt i (by decide)
    obtain ⟨t, ht, hsum⟩ := issueAll_saeCommands h (by simp only [foldEvery] at hi hn; omega) a b
    have hd := byteDistance_le (a, b)
    by_cases hlast : (i + 1) % foldEvery = 0
    · obtain ⟨hready, hovf, hacc⟩ := hsum
      obtain ⟨v, hv, hsum'⟩ := issueAll_accclr (s := t.logRead t.acc) hready hovf
      obtain ⟨u, hu, hend⟩ := saeLoop_eq rest (i + 1) (total + (n + byteDistance (a, b))) hsum' (Nat.zero_le _)
      refine ⟨u, ?_, hend⟩
      simp [saeLoop, ht, hlast, readWord_acc hready, hv, hacc, hu, Nat.add_assoc]
    · have hnext : (i + 1) % foldEvery = i % foldEvery + 1 := by simp only [foldEvery] at hlast ⊢; omega
      obtain ⟨u, hu, hend⟩ := saeLoop_eq rest (i + 1) total hsum (by omega)
      refine ⟨u, ?_, hend⟩
      simp [saeLoop, ht, hlast, hu, Nat.add_assoc]

/-- Settles O57: the loop starts from an ACC just cleared and a total of 0; different dimensions end the procedure at
its first check. -/
theorem saeReturnsTheExactSum : Obligations.SaeReturnsTheExactSum := by
  refine ⟨fun as bs w h s hr => ?_, fun as bs wa ha wb hb s hdim => ⟨.dimensionMismatch, if_pos hdim⟩⟩
  obtain ⟨t, ht, hready, hovf, -⟩ := beginProcedure_ready hr
  obtain ⟨v, hv, hsum⟩ := issueAll_accclr hready hovf
  obtain ⟨u, hu, hready', hovf'⟩ := saeLoop_eq (as.zip bs) 0 0 hsum (Nat.zero_le _)
  refine ⟨u.logRead u.statusWord, ?_, hovf'⟩
  simp [sae, ht, hv, hu, conclude_of_ready _ _ hready']

end Sys2Proof.Proofs
end

section
/-! What a command does to the error record, and the statements about exceptions (spec 60_exceptions.md). -/

namespace Sys2Proof.Proofs

open Sys2Proof.Machine Sys2Proof.Safety

/-! ### A step with nothing pending -/

theorem step_of_nothing_pending {s : State} (h : s.pending = []) : step s = .next s := by
  simp only [step, h]

/-- Settles O58: the unit waits for the host's next access (R229, R242). -/
theorem stepWithNothingPendingChangesNothing : Obligations.StepWithNothingPendingChangesNothing :=
  fun _ => step_of_nothing_pending rfl

/-! ### The error recorded before a command -/

/-- Everything but ERR, ERRCODE and ERRINFO is the same. -/
def SameButErrorRecord (s t : State) : Prop :=
  SameFields s t ∧ t.acc = s.acc ∧ t.warnClamp = s.warnClamp ∧ t.accOvf = s.accOvf ∧ t.clampCnt = s.clampCnt ∧
  t.lastCmd = s.lastCmd ∧ SameOutside s t

/-- No command's effect carries the error record into another register. -/
theorem CommandEffect.sameButErrorRecord_apply (f : CommandEffect) {s t : State} (h : SameButErrorRecord s t) :
    SameButErrorRecord (f.apply s) (f.apply t) := by
  obtain ⟨hF, hacc, hwarn, hovf, hcnt, hlast, hout⟩ := h
  refine ⟨f.sameFields_apply hF, f.acc_apply hacc, ?_⟩
  cases f with
  | clamp rd => exact ⟨rfl, hovf, congrArg saturatingSucc hcnt, hlast, hout⟩
  | accumulate d => exact ⟨hwarn, by simp [CommandEffect.apply, hacc, hovf], hcnt, hlast, hout⟩
  | _ => exact ⟨hwarn, hovf, hcnt, hlast, hout⟩

/-- Settles O44: the operands alone choose a command's effect, and with or without the recorded error they are the same. -/
theorem recordedErrorDoesNotAlterCommands : Obligations.RecordedErrorDoesNotAlterCommands := by
  intro i s c w
  have h : SameButErrorRecord s { s with err := true, errCode := c, errInfo := w } :=
    ⟨fun _ => rfl, rfl, rfl, rfl, rfl, rfl, rfl, rfl, rfl⟩
  obtain ⟨f, hf, hf'⟩ := exec_effect_of_sameFields i h.1
  exact ⟨_, _, hf, hf', f.sameButErrorRecord_apply h⟩

/-! ### The one error of a command (R212) -/

/-- Every command completes, and either keeps the error record or does nothing but record the one error R212 gives it. -/
theorem exec_errorRecord (i : Instr) (s : State) :
    ∃ t, exec i s = .next t ∧
      (SameErrorRecord s t ∨ ∃ c, onlyError i = some c ∧ t = s.recordError c (encode i)) := by
  cases i with
  | ldi rd n =>
    by_cases h : n ≤ 256
    · exact ⟨_, exec_ldi_of_le h rd s, .inl ⟨rfl, rfl, rfl⟩⟩
    · exact ⟨_, exec_ldi_of_gt (Nat.lt_of_not_le h) rd s, .inr ⟨.range, rfl, rfl⟩⟩
  | finv rd rs1 =>
    by_cases h : s.F rs1 = 0
    · exact ⟨_, exec_finv_of_zero h rd, .inr ⟨.domain, rfl, rfl⟩⟩
    · exact ⟨_, exec_finv_of_ne_zero h rd, .inl ⟨rfl, rfl, rfl⟩⟩
  | lagc rd rs1 rs2 =>
    by_cases h : s.F rs1 = s.F rs2
    · exact ⟨_, exec_lagc_of_eq h rd, .inr ⟨.dupx, rfl, rfl⟩⟩
    · exact ⟨_, exec_lagc_of_ne h rd, .inl ⟨rfl, rfl, rfl⟩⟩
  | bclmp rd rs1 =>
    by_cases h : (s.F rs1).val ≤ 255
    · exact ⟨_, exec_bclmp_of_byte h rd, .inl ⟨rfl, rfl, rfl⟩⟩
    · exact ⟨_, exec_bclmp_clamps rd (Nat.lt_of_not_le h), .inl ⟨rfl, rfl, rfl⟩⟩
  | bavgp rd rs1 rs2 rs3 rs4 =>
    by_cases h : ∀ r ∈ [rs1, rs2, rs3, rs4], (s.F r).val ≤ 255
    · exact ⟨_, exec_bavgp_of_bytes h rd, .inl ⟨rfl, rfl, rfl⟩⟩
    · exact ⟨_, exec_bavgp_of_gt (by push Not at h; exact h) rd, .inr ⟨.range, rfl, rfl⟩⟩
  | sadacc rs1 rs2 =>
    by_cases h : 255 < (s.F rs1).val ∨ 255 < (s.F rs2).val
    · exact ⟨_, exec_sadacc_of_gt h, .inr ⟨.range, rfl, rfl⟩⟩
    · obtain ⟨h1, h2⟩ := not_or.1 h
      exact ⟨_, exec_sadacc_of_bytes (Nat.le_of_not_lt h1) (Nat.le_of_not_lt h2), .inl ⟨rfl, rfl, rfl⟩⟩
  | _ => exact ⟨_, rfl, .inl ⟨rfl, rfl, rfl⟩⟩

/-- Each command that R212 gives an error raises it: LDI of 257, FINV and LAGC of registers that hold 0, BAVGP and SADACC
of a register that holds 256. -/
theorem exists_raiseErr_of_onlyError {i : Instr} {c : ErrCode} (h : onlyError i = some c) :
    ∃ i' s, i'.command = i.command ∧ s.err = false ∧ exec i' s = s.raiseErr c (encode i') := by
  cases i with
  | ldi rd n =>
    obtain rfl := Option.some.inj h
    exact ⟨.ldi rd 257, State.reset, rfl, rfl, exec_ldi_of_gt (by decide) rd _⟩
  | finv rd rs1 =>
    obtain rfl := Option.some.inj h
    exact ⟨_, State.reset, rfl, rfl, exec_finv_of_zero (State.F_reset rs1) rd⟩
  | lagc rd rs1 rs2 =>
    obtain rfl := Option.some.inj h
    exact ⟨_, State.reset, rfl, rfl, exec_lagc_of_eq ((State.F_reset rs1).trans (State.F_reset rs2).symm) rd⟩
  | bavgp rd rs1 rs2 rs3 rs4 =>
    obtain rfl := Option.some.inj h
    exact ⟨_, State.reset.setF rs1 256, rfl, rfl,
      exec_bavgp_of_gt ⟨rs1, List.mem_cons_self, by rw [State.F_setF_self]; decide⟩ rd⟩
  | sadacc rs1 rs2 =>
    obtain rfl := Option.some.inj h
    exact ⟨_, State.reset.setF rs1 256, rfl, rfl, exec_sadacc_of_gt (.inl (by rw [State.F_setF_self]; decide))⟩
  | _ => exact nomatch h

/-- Settles O45: a command that does not keep the error record records the one error R212 gives it, and each such error is
raised from a state without one. -/
theorem eachCommandRaisesOnlyItsOwnError : Obligations.EachCommandRaisesOnlyItsOwnError := by
  constructor
  · intro i s
    obtain ⟨t, ht, hsame | ⟨c, hc, rfl⟩⟩ := exec_errorRecord i s
    · exact ⟨t, ht, .inl hsame⟩
    · exact ⟨_, ht, .inr ⟨c, hc, onlyRecordsError_recordError s c (encode i)⟩⟩
  · intro i c hc
    obtain ⟨i', s, hi', herr, hs⟩ := exists_raiseErr_of_onlyError hc
    exact ⟨i', s, _, hi', hs, herr, onlyRecordsError_recordError s c (encode i')⟩

/-- Settles O46: a command that does not keep the error record has no other effect. -/
theorem commandWithAnEffectRecordsNoError : Obligations.CommandWithAnEffectRecordsNoError := by
  intro i s t h heffect
  obtain ⟨t', ht', hcases⟩ := exec_errorRecord i s
  obtain rfl : t' = t := Host.Outcome.next.inj (ht'.symm.trans h)
  obtain hsame | ⟨c, -, rfl⟩ := hcases
  · exact hsame
  · simp [SameFields] at heffect

end Sys2Proof.Proofs
end

section
/-! The two sources of reset, the state they leave, and the accesses the unit does not take (spec
70_reset_and_hazards.md). -/

namespace Sys2Proof.Proofs

open Sys2Proof.Machine Sys2Proof.Safety

/-! ### Accesses the unit does not take -/

theorem access_outsideWindow {a : Access} {s : State} (h : accessRefusal a s = none) (hoff : 0x100 ≤ a.off) :
    access a s = .fault .outsideWindow := by
  simp [access, h, hoff]

/-- Settles O16: an access that is not refused is the host's, with the reset input released; one that passes every check
of the refusals faults at an offset outside the window. -/
theorem accessDuringResetOrBySecondHostIsRefused : Obligations.AccessDuringResetOrBySecondHostIsRefused := by
  intro s a rest hp
  rw [step_pending hp]
  constructor
  · intro h
    refine access_refused fun hnone => ?_
    obtain ⟨hmaster, hreleased, -⟩ := accessRefusal_eq_none_iff.1 hnone
    obtain hasserted | hother := h
    · exact absurd (hreleased.symm.trans hasserted) (by decide)
    · exact absurd (hmaster.symm.trans hother) (by decide)
  · intro hreleased hmaster hwidth halign hoff
    exact access_outsideWindow (accessRefusal_eq_none_iff.2 ⟨hmaster, hreleased, hwidth, halign⟩) hoff

/-! ### The two sources of reset (R240, R241) -/

theorem step_assertReset {s : State} {rest : List BusEvent} (hp : s.pending = .assertReset :: rest) :
    step s = .next ((s.setPending rest).resetUnit.setResetLine true) :=
  step_pending hp

theorem step_ctrlWrite {s : State} {w : Word} {rest : List BusEvent} (hp : s.pending = hostWriteAt 0x04 w :: rest)
    (hr : s.resetLine = false) : step s = .next (ctrlWrite w (s.setPending rest)) :=
  (step_pending hp).trans (takeEvent_hostWriteAt w (s := s.setPending rest) hr (by decide) (by decide))

/-- Settles O17: both sources leave the unit's reset, in which every register is 0, and differ in the level of the reset
input alone. -/
theorem eitherResetZeroesEveryRegister : Obligations.EitherResetZeroesEveryRegister := by
  refine ⟨fun s e rest hp he hr => ?_, fun s rest => step_setPending_cons .releaseReset rest s,
    fun s w rest hr hw => ?_⟩
  · have hzero := allRegistersZero_resetUnit (s.setPending rest)
    obtain rfl | ⟨w, rfl, hw⟩ := he
    · exact ⟨_, step_assertReset hp, hzero, rfl, rfl, rfl, fun _ => rfl, fun h => absurd rfl h⟩
    · have hne : hostWriteAt 0x04 w ≠ .assertReset := assertReset_ne_hostWriteAt.symm
      have hstep := step_ctrlWrite hp (hr hne)
      rw [ctrlWrite_of_bit0 hw] at hstep
      exact ⟨_, hstep, hzero, rfl, rfl, rfl, fun h => absurd h hne, fun _ => rfl⟩
  · exact (step_hostWriteAt rest hr w (by decide) (by decide)).trans
      (congrArg Host.Outcome.next (ctrlWrite_of_not_bit0 hw (s.setPending rest)))

/-! ### The state after reset (R241) -/

/-- The state after reset is what the unit's reset makes of itself. -/
theorem resetUnit_reset : State.reset.resetUnit = State.reset := rfl

/-- Settles O18: the state after reset is one the unit's reset leaves, in which every register is 0. -/
theorem resetStateHasEveryRegisterZero : Obligations.ResetStateHasEveryRegisterZero :=
  ⟨resetUnit_reset ▸ allRegistersZero_resetUnit State.reset, rfl, rfl, rfl⟩

/-- Settles O37: the error record of the state after reset is clear, as O18 has it, and a clear record is consistent. -/
theorem resetErrorRecordIsConsistent : Obligations.ResetErrorRecordIsConsistent := by
  obtain ⟨⟨-, -, herr, -, -, hcode, hinfo, -⟩, -⟩ := resetStateHasEveryRegisterZero
  exact ErrorRecordClear.consistent ⟨herr, hcode, hinfo⟩

end Sys2Proof.Proofs
end
